-- ==== Sys2Proof/Word.lean ====
section
/-! DEFINITION. The words of the command interface (spec/00_scope.md R7, spec/30_encoding.md R90, R91). -/

namespace Sys2Proof

/-- A 32-bit word: `W0`, `W1`, `W2`, `RESULT`, a storage cell, a register (R62). Bit 0 is the least significant. -/
abbrev Word := BitVec 32

/-- The 8-bit `OP` and `CH` fields of the header word (R91). -/
abbrev Field8 := BitVec 8

/-- The 16-bit `RSV` field of the header word (R91). -/
abbrev Field16 := BitVec 16

end Sys2Proof
end

