-- ==== Sys2Proof/Syntax.lean ====
section
/-! DEFINITION. Commands as syntax: the fourteen commands of spec/opcode_table.json, the three words that carry
one, the reasons a command word is illegal, the two ports, and the assembler's statements (spec/30_encoding.md). -/

namespace Sys2Proof

/-- The commands of spec/30_encoding.md R93, one constructor per row of spec/opcode_table.json. A word the rule
marks as ignored is no operand (R97). -/
inductive Instr where
  /-- NOP (44_control.md R200) -/
  | nop
  /-- PREPARE channel count, capacity, sample rate (41_store.md R120) -/
  | prepare (n : Field8) (cap : Word) (rate : Word)
  /-- RELEASE (44_control.md R201) -/
  | release
  /-- SET_DELAY_MS delay time (43_parameters.md R190) -/
  | setDelayMs (ms : Word)
  /-- SET_WET_GAIN gain (43_parameters.md R191) -/
  | setWetGain (g : Word)
  /-- BEGIN_BLOCK (42_engine.md R151) -/
  | beginBlock
  /-- PROCESS_SAMPLE channel, dry sample (42_engine.md R153) -/
  | processSample (ch : Field8) (x : Word)
  /-- STORE_READ channel, index (41_store.md R121) -/
  | storeRead (ch : Field8) (i : Word)
  /-- STORE_WRITE channel, index, value (41_store.md R122) -/
  | storeWrite (ch : Field8) (i : Word) (v : Word)
  /-- STORE_ADVANCE channel (41_store.md R123) -/
  | storeAdvance (ch : Field8)
  /-- GET_CURSOR channel (41_store.md R124) -/
  | getCursor (ch : Field8)
  /-- GET_READ_CURSOR channel (42_engine.md R155) -/
  | getReadCursor (ch : Field8)
  /-- READ_REG register number (44_control.md R202) -/
  | readReg (n : Word)
  /-- CLEAR_ERR (44_control.md R203) -/
  | clearErr
deriving DecidableEq, Repr

/-- A command as it crosses a port: exactly three 32-bit words (R90). -/
structure Command where
  /-- header word (R91) -/
  w0 : Word
  /-- operand word (R92) -/
  w1 : Word
  /-- data word (R92) -/
  w2 : Word
deriving DecidableEq, Repr

/-- Why three words are no command (R95, R96). Every reason is answered with ILLEGAL_CMD. -/
inductive Illegal where
  /-- `OP` is 0x0E to 0xFF (R95) -/
  | reservedOpcode
  /-- `RSV` is not 0 (R96 (a)) -/
  | reservedField
  /-- `CH` is not 0 where it must be (R96 (b)) -/
  | channelField
  /-- READ_REG with `W1` above 9 (R96 (c)) -/
  | registerNumber
deriving DecidableEq, Repr

/-- What the decoder says of three words: a command, or illegal for a named reason (R98). -/
inductive Decoded where
  | legal (i : Instr)
  | illegal (why : Illegal)
deriving DecidableEq, Repr

/-- The two command ports, fixed by wiring (60_exceptions.md R229). -/
inductive Port where
  /-- the audio port: every command -/
  | a
  /-- the control port: NOP, the two setters and READ_REG only -/
  | c
deriving DecidableEq, Repr, Inhabited

/-- A statement of the assembler: a command or a pseudo-instruction (R101, R102). -/
inductive AsmStmt where
  | core (i : Instr)
  /-- `SET_PARAMS ms, g` -/
  | setParams (ms g : Word)
  /-- `PROCESS_RUN ch, x0, x1, …` -/
  | processRun (ch : Field8) (xs : List Word)
  /-- `CALL_BLOCK [x0_0, …], [x1_0, …], …`, one list per channel -/
  | callBlock (xss : List (List Word))
  /-- `READ_STATUS` -/
  | readStatus
deriving DecidableEq, Repr

/-- A token of one assembler line (R101). -/
inductive Token where
  | word (cs : List Char)
  | comma
  | colon
  | openList
  | closeList
deriving DecidableEq, Repr

end Sys2Proof
end

