-- ==== Sys2Proof/WellFormed.lean ====
section
/-! DEFINITION. Which commands the encoding admits (spec/30_encoding.md R96, R98). Every field of `Instr` has the
width of its encoding field, so the one operand that can be ill-formed is READ_REG's register number. -/

namespace Sys2Proof

/-- Has the command an encoding? A register number is 0 to 9 (R96 (c)). Channel numbers, counts, indices and rates
are checked when the command runs, not by the encoding (R96, last sentence). -/
def Instr.isWellFormed : Instr → Bool
  | .readReg n => decide (n.toNat ≤ 9)
  | .nop | .prepare _ _ _ | .release | .setDelayMs _ | .setWetGain _ | .beginBlock | .processSample _ _
  | .storeRead _ _ | .storeWrite _ _ _ | .storeAdvance _ | .getCursor _ | .getReadCursor _ | .clearErr => true

/-- The command has an encoding (`Instr.isWellFormed` as a proposition). -/
abbrev Instr.WellFormed (i : Instr) : Prop := i.isWellFormed = true

end Sys2Proof
end

