-- ==== Sys2Proof/Decode.lean ====
section
/-! DEFINITION. The decoder and the encoder of spec/30_encoding.md: header fields (R91), the total decoder (R98),
the mask-and-match table (R98, spec/opcode_table.json) and the words an assembler emits (R93, R101). -/

namespace Sys2Proof

/-- `OP = W0[31:24]` (R91). -/
def opField (w0 : Word) : Field8 := w0.extractLsb' 24 8

/-- `CH = W0[23:16]` (R91). -/
def chField (w0 : Word) : Field8 := w0.extractLsb' 16 8

/-- `RSV = W0[15:0]` (R91). -/
def rsvField (w0 : Word) : Field16 := w0.extractLsb' 0 16

/-- The command of a defined opcode with its operands, `none` for a reserved opcode (R93, R94, R95). -/
def instrOf (op ch : Field8) (w1 w2 : Word) : Option Instr :=
  match op.toNat with
  | 0x00 => some .nop
  | 0x01 => some (.prepare ch w1 w2)
  | 0x02 => some .release
  | 0x03 => some (.setDelayMs w2)
  | 0x04 => some (.setWetGain w2)
  | 0x05 => some .beginBlock
  | 0x06 => some (.processSample ch w2)
  | 0x07 => some (.storeRead ch w1)
  | 0x08 => some (.storeWrite ch w1 w2)
  | 0x09 => some (.storeAdvance ch)
  | 0x0A => some (.getCursor ch)
  | 0x0B => some (.getReadCursor ch)
  | 0x0C => some (.readReg w1)
  | 0x0D => some .clearErr
  | _ => none

/-- The opcodes whose `CH` must be 0 (R96 (b), R98). -/
def chMustBeZero (op : Field8) : Bool :=
  op = 0x00 || op = 0x02 || op = 0x03 || op = 0x04 || op = 0x05 || op = 0x0C || op = 0x0D

/-- The total decoder of R98. It reads `W0`, and `W1` for READ_REG's register number. -/
def decode (c : Command) : Decoded :=
  match instrOf (opField c.w0) (chField c.w0) c.w1 c.w2 with
  | none => .illegal .reservedOpcode
  | some i =>
    if rsvField c.w0 ≠ 0 then .illegal .reservedField
    else if chMustBeZero (opField c.w0) ∧ chField c.w0 ≠ 0 then .illegal .channelField
    else if i.isWellFormed then .legal i
    else .illegal .registerNumber

/-- The opcode of a command (R93). -/
def opcodeOf : Instr → Field8
  | .nop => 0x00
  | .prepare _ _ _ => 0x01
  | .release => 0x02
  | .setDelayMs _ => 0x03
  | .setWetGain _ => 0x04
  | .beginBlock => 0x05
  | .processSample _ _ => 0x06
  | .storeRead _ _ => 0x07
  | .storeWrite _ _ _ => 0x08
  | .storeAdvance _ => 0x09
  | .getCursor _ => 0x0A
  | .getReadCursor _ => 0x0B
  | .readReg _ => 0x0C
  | .clearErr => 0x0D

/-- Does the command use its operand word `W1` (R93)? -/
def usesW1 : Instr → Bool
  | .prepare _ _ _ | .storeRead _ _ | .storeWrite _ _ _ | .readReg _ => true
  | .nop | .release | .setDelayMs _ | .setWetGain _ | .beginBlock | .processSample _ _ | .storeAdvance _
  | .getCursor _ | .getReadCursor _ | .clearErr => false

/-- Does the command use its data word `W2` (R93)? -/
def usesW2 : Instr → Bool
  | .prepare _ _ _ | .setDelayMs _ | .setWetGain _ | .processSample _ _ | .storeWrite _ _ _ => true
  | .nop | .release | .beginBlock | .storeRead _ _ | .storeAdvance _ | .getCursor _ | .getReadCursor _
  | .readReg _ | .clearErr => false

/-- The header word of an opcode and a channel field, `RSV` zero (R91). -/
def header (op ch : Field8) : Word := op ++ ch ++ (0 : Field16)

/-- The three words of a command. An ignored word and a `CH` that must be 0 are 0 (R93, R101). -/
def encode : Instr → Command
  | .nop => ⟨header 0x00 0, 0, 0⟩
  | .prepare n cap rate => ⟨header 0x01 n, cap, rate⟩
  | .release => ⟨header 0x02 0, 0, 0⟩
  | .setDelayMs ms => ⟨header 0x03 0, 0, ms⟩
  | .setWetGain g => ⟨header 0x04 0, 0, g⟩
  | .beginBlock => ⟨header 0x05 0, 0, 0⟩
  | .processSample ch x => ⟨header 0x06 ch, 0, x⟩
  | .storeRead ch i => ⟨header 0x07 ch, i, 0⟩
  | .storeWrite ch i v => ⟨header 0x08 ch, i, v⟩
  | .storeAdvance ch => ⟨header 0x09 ch, 0, 0⟩
  | .getCursor ch => ⟨header 0x0A ch, 0, 0⟩
  | .getReadCursor ch => ⟨header 0x0B ch, 0, 0⟩
  | .readReg n => ⟨header 0x0C 0, n, 0⟩
  | .clearErr => ⟨header 0x0D 0, 0, 0⟩

/-- One row of spec/opcode_table.json: the bits of `W0` under `mask` are those of `pattern` (R90, R98). -/
structure OpcodeRow where
  mnemonic : String
  pattern : Word
  mask : Word
deriving DecidableEq, Repr

/-- The opcode table: a channel-taking opcode has mask 0xFF00FFFF, every other 0xFFFFFFFF (R98). -/
def opcodeTable : List OpcodeRow :=
  [⟨"NOP", 0x00000000, 0xFFFFFFFF⟩, ⟨"PREPARE", 0x01000000, 0xFF00FFFF⟩, ⟨"RELEASE", 0x02000000, 0xFFFFFFFF⟩,
   ⟨"SET_DELAY_MS", 0x03000000, 0xFFFFFFFF⟩, ⟨"SET_WET_GAIN", 0x04000000, 0xFFFFFFFF⟩,
   ⟨"BEGIN_BLOCK", 0x05000000, 0xFFFFFFFF⟩, ⟨"PROCESS_SAMPLE", 0x06000000, 0xFF00FFFF⟩] ++
  [⟨"STORE_READ", 0x07000000, 0xFF00FFFF⟩, ⟨"STORE_WRITE", 0x08000000, 0xFF00FFFF⟩,
   ⟨"STORE_ADVANCE", 0x09000000, 0xFF00FFFF⟩, ⟨"GET_CURSOR", 0x0A000000, 0xFF00FFFF⟩,
   ⟨"GET_READ_CURSOR", 0x0B000000, 0xFF00FFFF⟩, ⟨"READ_REG", 0x0C000000, 0xFFFFFFFF⟩,
   ⟨"CLEAR_ERR", 0x0D000000, 0xFFFFFFFF⟩]

/-- The row's fixed bits stand in the header word. -/
def OpcodeRow.hits (r : OpcodeRow) (w0 : Word) : Bool := w0 &&& r.mask == r.pattern

/-- The mnemonic of a command (R93). -/
def mnemonicOf : Instr → String
  | .nop => "NOP"
  | .prepare _ _ _ => "PREPARE"
  | .release => "RELEASE"
  | .setDelayMs _ => "SET_DELAY_MS"
  | .setWetGain _ => "SET_WET_GAIN"
  | .beginBlock => "BEGIN_BLOCK"
  | .processSample _ _ => "PROCESS_SAMPLE"
  | .storeRead _ _ => "STORE_READ"
  | .storeWrite _ _ _ => "STORE_WRITE"
  | .storeAdvance _ => "STORE_ADVANCE"
  | .getCursor _ => "GET_CURSOR"
  | .getReadCursor _ => "GET_READ_CURSOR"
  | .readReg _ => "READ_REG"
  | .clearErr => "CLEAR_ERR"

/-- The three words of a number that holds them with `W0` lowest: `W0` is bits 31..0, `W1` bits 63..32, `W2` bits
95..64. Bits at and above `nbits` are 0 (notes/assumptions/16.md). -/
def commandOfBits (nbits w : Nat) : Command :=
  let v := w % 2 ^ nbits
  ⟨BitVec.ofNat 32 v, BitVec.ofNat 32 (v / 2 ^ 32), BitVec.ofNat 32 (v / 2 ^ 64)⟩

/-- The command the decoder reads from a table word of `nbits` bits. -/
def decodeTableWord (nbits w : Nat) : Option Instr :=
  match decode (commandOfBits nbits w) with
  | .legal i => some i
  | .illegal _ => none

end Sys2Proof
end

