-- ==== Sys2Proof/Machine/Float.lean ====
section
/-! DEFINITION. The binary32 primitives of spec/00_scope.md R9 to R11 and the mix of spec/42_engine.md R154.

Every finite binary32 value is a whole multiple of 2^-149, so the arithmetic is done on integers: `f32Scaled b` is
`val b` times 2^149, a sum is exact in units of 2^-149, a product in units of 2^-298, and one rounding narrows it. -/

namespace Sys2Proof.Machine

/-- The sign bit `b[31]` (R9). -/
def f32Sign (b : Word) : Bool := b.getLsbD 31

/-- The exponent field `b[30:23]` (R9). -/
def f32Exp (b : Word) : Nat := (b.extractLsb' 23 8).toNat

/-- The fraction field `b[22:0]` (R9). -/
def f32Frac (b : Word) : Nat := (b.extractLsb' 0 23).toNat

/-- `isNaN(b)` (R9). -/
def isNaN (b : Word) : Bool := f32Exp b = 255 ∧ f32Frac b ≠ 0

/-- `isInf(b)` (R9). -/
def isInf (b : Word) : Bool := f32Exp b = 255 ∧ f32Frac b = 0

/-- The pattern is neither a NaN nor infinite: it has a value (R9). -/
def isFinite (b : Word) : Bool := f32Exp b ≠ 255

/-- The pattern is +0 or -0 (R9). -/
def isZero (b : Word) : Bool := f32Exp b = 0 ∧ f32Frac b = 0

/-- `val(b)` of R9, the real value of a pattern that is neither NaN nor infinite. The arithmetic below works on
`f32Scaled`; `Laws.val_eq_scaled` says the two agree. -/
def val (b : Word) : ℚ :=
  (if f32Sign b then -1 else 1) *
    (if f32Exp b = 0 then (f32Frac b : ℚ) * 2 ^ (-149 : ℤ)
     else ((2 ^ 23 + f32Frac b : Nat) : ℚ) * 2 ^ ((f32Exp b : ℤ) - 150))

/-- The magnitude of `val(b)` in units of 2^-149. -/
def f32Mag (b : Word) : Nat :=
  if f32Exp b = 0 then f32Frac b else (2 ^ 23 + f32Frac b) * 2 ^ (f32Exp b - 1)

/-- `val(b)` in units of 2^-149. -/
def f32Scaled (b : Word) : Int := if f32Sign b then -(f32Mag b : Int) else (f32Mag b : Int)

/-- The quotient `n / d` rounded to the nearest whole number, a tie to the even one (R10 (1)). -/
def roundHalfEven (n d : Nat) : Nat :=
  let q := n / d
  let r := n % d
  if 2 * r < d ∨ (2 * r = d ∧ q % 2 = 0) then q else q + 1

/-- How many low bits of a whole number are rounded away so that at most 24 significant bits stay, and at
least the `sh` bits below the quantum 2^-149 of the subnormals (R10 (1), (3)). -/
def roundShift (sh n : Nat) : Nat := max (Nat.log2 n + 1 - 24) sh

/-- The exponent and fraction fields (bits 30..0) of `m` times 2^`k` in units of 2^-149, for a significand
`m ≤ 2^24`: a significand of 2^24 carries into the exponent. A magnitude of at least 2^128 is infinite (R10 (2)). -/
def packFields (k m : Nat) : Nat := min (k * 2 ^ 23 + m) (255 * 2 ^ 23)

/-- Bits 30..0 of the binary32 value nearest to the magnitude `n` in units of 2^-(149 + `sh`) (R10 (1) to (3)). -/
def roundMag (sh n : Nat) : Nat :=
  packFields (roundShift sh n - sh) (roundHalfEven n (2 ^ roundShift sh n))

/-- A pattern from its sign and its bits 30..0. -/
def f32Pattern (sign : Bool) (fields : Nat) : Word :=
  BitVec.ofNat 32 ((if sign then 2 ^ 31 else 0) + fields)

/-- ±∞ (R9). -/
def f32Inf (sign : Bool) : Word := f32Pattern sign (255 * 2 ^ 23)

/-- `0x7FC00000`, the positive quiet NaN with zero payload (R11). -/
def canonicalNaN : Word := 0x7FC00000

/-- `f32_mul(a, b)` (R10). A NaN result has the canonical payload, which nothing can observe: `canon` follows
(notes/assumptions/8.md). -/
def f32Mul (a b : Word) : Word :=
  if isNaN a ∨ isNaN b ∨ (isInf a ∧ isZero b) ∨ (isZero a ∧ isInf b) then canonicalNaN
  else if isInf a ∨ isInf b then f32Inf (f32Sign a ^^ f32Sign b)
  else f32Pattern (f32Sign a ^^ f32Sign b) (roundMag 149 (f32Mag a * f32Mag b))

/-- The finite case of `f32_add`: an exact zero sum is -0 only if both operands are negative (R10 (4)). -/
def f32AddFinite (a b : Word) : Word :=
  let t := f32Scaled a + f32Scaled b
  if t = 0 then f32Pattern (f32Sign a && f32Sign b) 0
  else f32Pattern (decide (t < 0)) (roundMag 0 t.natAbs)

/-- `f32_add(a, b)` (R10). A NaN result has the canonical payload, as for `f32Mul`. -/
def f32Add (a b : Word) : Word :=
  if isNaN a ∨ isNaN b ∨ (isInf a ∧ isInf b ∧ f32Sign a ≠ f32Sign b) then canonicalNaN
  else if isInf a then a
  else if isInf b then b
  else f32AddFinite a b

/-- `canon(b)` (R11). -/
def canon (b : Word) : Word := if isNaN b then canonicalNaN else b

/-- `mix(x, s, g) = canon(f32_add(x, f32_mul(s, g)))` (42_engine.md R154). The last sentence of R160 gives a -0 input
the output +0 always; the model keeps the sign computed here: DESIGN CHOICE (notes/assumptions/19.md). -/
def mix (x s g : Word) : Word := canon (f32Add x (f32Mul s g))

/-- Bits 30..0 of the binary32 value nearest to the rational `num / den`, `den` positive: the assembler's decimal
conversion (30_encoding.md R101). -/
def roundRatio (num den : Nat) : Nat :=
  let n := num * 2 ^ 149
  let k := roundShift 0 (n / den)
  packFields k (roundHalfEven n (den * 2 ^ k))

end Sys2Proof.Machine
end

