-- ==== Sys2Proof/Config.lean ====
section
/-! DEFINITION. What an implementation of the block fixes (spec/00_scope.md R6). `LATENCY_BOUND` and
`PORT_FRAMING` have no entry: no rule depends on them. -/

namespace Sys2Proof

/-- The implementation parameters a rule reads. They are arguments of the model: `State.cfg` carries them, no step
writes them, and no definition of the machine fixes them. Each is held less one, so that the values of this type are
exactly those R6 allows: `CH_MAX` from 1 to 255 and `CAP_MAX` from 1 to 2^32 - 1. -/
structure Params where
  chMaxLess1 : Fin 255
  capMaxLess1 : Fin 4294967295
deriving DecidableEq, Repr, Inhabited

/-- `CH_MAX`, the largest channel count PREPARE accepts (R6). -/
def Params.chMax (p : Params) : Field8 := BitVec.ofNat 8 (p.chMaxLess1.val + 1)

/-- `CAP_MAX`, the largest per-channel capacity PREPARE accepts (R6). -/
def Params.capMax (p : Params) : Word := BitVec.ofNat 32 (p.capMaxLess1.val + 1)

/-- The parameters of the block that `State.reset` describes: open (R6), so without a body. Nothing can be proved about
them but that R6 allows them (notes/assumptions/3.md). -/
opaque Config.params : Params

/-- The parameters the test vectors assume (95_test_vectors.md): R6's upper bounds. No definition of the machine uses
them; a run of the vectors starts from `State.resetWith Config.vectorParams`. -/
def Config.vectorParams : Params := { chMaxLess1 := 254, capMaxLess1 := 4294967294 }

/-- `ARB` (20_memory.md R69): the port the arbiter serves at its `k`-th free decision between two waiting commands.
A free value: it has no body, so nothing can be proved about which port it names (notes/assumptions/2.md). -/
opaque Config.arb : Nat → Port

end Sys2Proof
end

