-- ==== Sys2Proof/Machine/State.lean ====
section
/-! DEFINITION. The machine's state as plain data: the spec's tuple (spec/10_state.md R20) in `Block`, the
implementation parameters (spec/00_scope.md R6) in `Params`, and the two issuers, the arbiter's decisions and the
responses (no state of the block, R38 (b)) in `Env`. Then the ways a step can stop, and the state after reset. -/

namespace Sys2Proof.Machine

/-- `SESSION` (R21). -/
inductive Session where
  | unprepared
  | prepared
deriving DecidableEq, Repr

/-- The error codes 1 to 8 (60_exceptions.md R221). -/
inductive ErrorCode where
  | illegalCmd
  | portDenied
  | notPrepared
  | badConfig
  | badChannel
  | noBlock
  | badIndex
  | delayRange
deriving DecidableEq, Repr

/-- A response: the pair `(STATUS_CODE, RESULT)` (30_encoding.md R99). -/
structure Response where
  status : BitVec 4
  result : Word
deriving DecidableEq, Repr

/-- One decision of the outside world: the arbiter turns to a port, or power-on reset is asserted. -/
inductive Turn where
  | serve (p : Port)
  | powerOn
deriving DecidableEq, Repr

/-- Storage of 32-bit cells by key (`cellKey`): keys strictly rising, no cell listed that holds what an unlisted cell
reads as (`Memory.wf`). The smallest unit of the sample space is the whole cell, never a byte (20_memory.md R62, R63;
notes/assumptions/6.md). -/
abbrev Memory := List (Nat × Word)

/-- What a cell that is not listed reads as: PREPARE writes every cell to `0x00000000` (R27, 41_store.md R126 (c);
notes/assumptions/5.md). -/
def Memory.unlisted : Word := 0x00000000

/-- The canonical form: keys strictly rising, and no entry equal to what an unlisted cell reads as. -/
abbrev Memory.wf (m : Memory) : Prop :=
  m.Pairwise (fun x y => x.1 < y.1) ∧ ∀ e ∈ m, e.2 ≠ Memory.unlisted

/-- The architectural state of the block: exactly the tuple of R20. -/
structure Block where
  /-- `SESSION` (R21) -/
  session : Session
  /-- `SAMPLE_RATE` (R28) -/
  sampleRate : Word
  /-- `CHANNEL_COUNT` (R28) -/
  channelCount : Word
  /-- `CAPACITY` (R28) -/
  capacity : Word
  /-- `RB`, the ring buffers of all channels (R27) -/
  rb : Memory
  /-- `WCUR`, one write cursor per channel, channel 0 first (R23) -/
  wcur : List Word
  /-- `DELAY_MS`, a binary32 pattern (R29) -/
  delayMs : Word
  /-- `WET_GAIN`, a binary32 pattern (R30) -/
  wetGain : Word
  /-- `BLOCK_VALID` (R31) -/
  blockValid : Bool
  /-- `BYPASS` (R31) -/
  bypass : Bool
  /-- `DELAY_SAMPLES` (R31) -/
  delaySamples : Word
  /-- `GAIN_LATCHED`, a binary32 pattern (R31) -/
  gainLatched : Word
  /-- `ERR_CODE` (R33) -/
  errCode : BitVec 4
  /-- `ERR_MULTI` (R33) -/
  errMulti : Bool
deriving DecidableEq, Repr

/-- The two issuers, the arbiter and the responses: the model's own fields, no state of the block
(notes/assumptions/1.md). -/
structure Env where
  /-- the commands issued on port A, in issue order; the head is the one waiting at the port (20_memory.md R69, R70) -/
  pendA : List Command
  /-- the commands issued on port C, likewise -/
  pendC : List Command
  /-- what the outside world decides next, first decision first; empty: the arbiter is free (`Config.arb`) -/
  turns : List Turn
  /-- how many free decisions the arbiter has taken -/
  arbTick : Nat
  /-- `port` of R8: the port that issued the command being executed -/
  port : Port
  /-- the responses returned to port A, oldest first (30_encoding.md R99, 70_reset_and_hazards.md R260) -/
  respA : List Response
  /-- the responses returned to port C, oldest first -/
  respC : List Response
deriving DecidableEq, Repr

/-- The machine: the block, its implementation parameters and its surroundings. -/
structure State where
  blk : Block
  cfg : Params
  env : Env
deriving DecidableEq, Repr

/-- Why the machine stops. Both stops are safe: the block has no such outcome, and no state that meets
`State.Inv` reaches one (notes/assumptions/7.md). -/
inductive Fault where
  /-- A command reaches a cell outside the sample space (20_memory.md R60). Raised by PROCESS_SAMPLE in a state whose
  cursor or latch breaks R24 or R32, which no command leaves behind. Safe. -/
  | noSuchCell
  /-- A command reaches the write cursor of a channel that has none (10_state.md R23). Raised by PROCESS_SAMPLE,
  STORE_ADVANCE, GET_CURSOR and GET_READ_CURSOR in a state with fewer cursors than `CHANNEL_COUNT`, which no command
  leaves behind. Safe. -/
  | noSuchCursor
deriving DecidableEq, Repr

/-- Why the machine has no meaning for a command. -/
inductive Refusal where
  /-- The command has no meaning in the model yet. Raised by `exec` alone, and at present by no arm of it. Safe. -/
  | notModelled (mnemonic : String)
deriving DecidableEq, Repr

/-- What a step answers. -/
abbrev Result := Host.Outcome State Fault Refusal

/-- The power-on values of R39. `RB` and `WCUR` have no value: nothing is listed (notes/assumptions/4.md). -/
def Block.powerOn : Block where
  session := .unprepared
  sampleRate := 0
  channelCount := 0
  capacity := 0
  rb := []
  wcur := []
  delayMs := 0x00000000
  wetGain := 0x00000000
  blockValid := false
  bypass := false
  delaySamples := 0
  gainLatched := 0x00000000
  errCode := 0
  errMulti := false

/-- No command waits, none was answered, no turn is decided. -/
def Env.quiet : Env where
  pendA := []
  pendC := []
  turns := []
  arbTick := 0
  port := .a
  respA := []
  respC := []

/-- The block of parameters `p` right after power-on reset (R39, 70_reset_and_hazards.md R250). -/
def State.resetWith (p : Params) : State where
  blk := Block.powerOn
  cfg := p
  env := Env.quiet

/-- The machine right after power-on reset, with parameters that stay open (notes/assumptions/3.md). -/
def State.reset : State := State.resetWith Config.params

end Sys2Proof.Machine
end

