-- ==== Sys2Proof/Machine/Ops.lean ====
section
/-! DEFINITION. The operations every command is made of: cells and cursors of the sample space (spec/10_state.md
R23, R27; spec/20_memory.md R60), the response (spec/30_encoding.md R99), rejection and the error record
(spec/60_exceptions.md R222, R223), the session and the block latch, and the ports (spec/20_memory.md R69). -/

namespace Sys2Proof.Machine

/-! ## Cells -/

/-- One cell of storage by its key. -/
def Memory.read : Memory → Nat → Word
  | [], _ => Memory.unlisted
  | (a, v) :: m, k => if a = k then v else Memory.read m k

/-- Storage with one cell replaced, in canonical form again: writing what an unlisted cell reads as removes the
entry. -/
def Memory.write : Memory → Nat → Word → Memory
  | [], k, v => if v = Memory.unlisted then [] else [(k, v)]
  | (a, w) :: m, k, v =>
    if k < a then (if v = Memory.unlisted then (a, w) :: m else (k, v) :: (a, w) :: m)
    else if a = k then (if v = Memory.unlisted then m else (k, v) :: m)
    else (a, w) :: Memory.write m k v

/-- The key of cell `RB[ch][i]`, `i` below 2^32: distinct cells have distinct keys (R60 (1), R67). -/
def cellKey (ch i : Nat) : Nat := ch * 2 ^ 32 + i

/-- Does the cell exist? The sample space has `CHANNEL_COUNT` channels of `CAPACITY` cells, and exists only while
PREPARED (R60). The index is a mathematical integer (R7). -/
def Block.hasCell (b : Block) (ch : Nat) (i : Int) : Bool :=
  b.session = .prepared ∧ ch < b.channelCount.toNat ∧ 0 ≤ i ∧ i < b.capacity.toNat

/-- `RB[ch][i]` (R8), `none` for a cell that does not exist. -/
def Block.readCell (b : Block) (ch : Nat) (i : Int) : Option Word :=
  if b.hasCell ch i then some (b.rb.read (cellKey ch i.toNat)) else none

/-- `RB[ch][i] <- v` (R8), `none` for a cell that does not exist. The pattern is stored verbatim (R37). -/
def Block.writeCell (b : Block) (ch : Nat) (i : Int) (v : Word) : Option Block :=
  if b.hasCell ch i then some { b with rb := b.rb.write (cellKey ch i.toNat) v } else none

/-! ## Write cursors -/

/-- `WCUR[ch]` (R8, R23), `none` for a channel without a cursor. -/
def Block.cursor (b : Block) (ch : Nat) : Option Word := b.wcur[ch]?

/-- `WCUR[ch] <- w` (R8). -/
def Block.setCursor (b : Block) (ch : Nat) (w : Word) : Block := { b with wcur := b.wcur.set ch w }

/-- The cursor increment: `w + 1`, or 0 where that is the capacity (41_store.md R123, 42_engine.md R156 (a)). -/
def advanceCursor (cap w : Word) : Word :=
  if w.toNat + 1 = cap.toNat then 0 else BitVec.ofNat 32 (w.toNat + 1)

/-- `RCUR` from a write cursor, `DELAY_SAMPLES` and `CAPACITY`, on mathematical integers (42_engine.md R152). -/
def readCursor (w d cap : Word) : Int :=
  let r : Int := (w.toNat : Int) - d.toNat
  if r < 0 then r + cap.toNat else r

/-! ## Session and latch -/

/-- `BLOCK_VALID <- 0; BYPASS <- 0; DELAY_SAMPLES <- 0; GAIN_LATCHED <- 0x00000000` (R120, R151, R201). -/
def Block.clearLatch (b : Block) : Block :=
  { b with blockValid := false, bypass := false, delaySamples := 0, gainLatched := 0x00000000 }

/-- A successful BEGIN_BLOCK's latch: the wet gain, and the delay count or bypass (42_engine.md R151). -/
def Block.setLatch (b : Block) (bypass : Bool) (d : Word) : Block :=
  { b with blockValid := true, bypass := bypass, delaySamples := d, gainLatched := b.wetGain }

/-- The session a successful PREPARE starts: configuration, every cell `0x00000000`, every cursor 0, the latch
cleared (41_store.md R120). No cell is listed, so every cell reads `0x00000000`. -/
def Block.startSession (b : Block) (n cap rate : Word) : Block :=
  { b.clearLatch with
    session := .prepared, sampleRate := rate, channelCount := n, capacity := cap,
    rb := [], wcur := List.replicate n.toNat 0 }

/-- What RELEASE leaves: no session, no configuration, no storage, no cursors, the latch cleared (44_control.md
R201). -/
def Block.endSession (b : Block) : Block :=
  { b.clearLatch with
    session := .unprepared, sampleRate := 0, channelCount := 0, capacity := 0, rb := [], wcur := [] }

/-! ## Responses and errors -/

/-- A response returned to the port that issued the command (30_encoding.md R99). -/
def Env.answer (e : Env) (r : Response) : Env :=
  { e with
    respA := match e.port with
      | .a => e.respA ++ [r]
      | .c => e.respA
    respC := match e.port with
      | .a => e.respC
      | .c => e.respC ++ [r] }

/-- `respond(result)`: the command ends with the response `(0, result)` (R8). -/
def respond (v : Word) (s : State) : State := { s with env := s.env.answer ⟨0, v⟩ }

/-- The code of an error (R221). -/
def ErrorCode.code : ErrorCode → BitVec 4
  | .illegalCmd => 1
  | .portDenied => 2
  | .notPrepared => 3
  | .badConfig => 4
  | .badChannel => 5
  | .noBlock => 6
  | .badIndex => 7
  | .delayRange => 8

/-- The sticky error record: the first code is kept, later ones set `ERR_MULTI` (R223). -/
def Block.recordError (b : Block) (e : ErrorCode) : Block :=
  { b with
    errCode := if b.errCode = 0 then e.code else b.errCode
    errMulti := if b.errCode = 0 then b.errMulti else true }

/-- `raise Error(code)`: the command is rejected, the record updated, and the response is `(code, 0)`. Nothing is
saved and control goes nowhere (R8, R220, R222, R226). -/
def raiseError (e : ErrorCode) (s : State) : State :=
  { s with blk := s.blk.recordError e, env := s.env.answer ⟨e.code, 0x00000000⟩ }

/-- The record is cleared. There is no other return from an error (44_control.md R203, 60_exceptions.md R227). -/
def Block.clearErrors (b : Block) : Block := { b with errCode := 0, errMulti := false }

/-- A rejected command as an outcome. -/
def reject (e : ErrorCode) (s : State) : Result := .next (raiseError e s)

/-- Three words that are no command are rejected with ILLEGAL_CMD before any other check (R98, R224). -/
def rejectIllegal (s : State) : Result := reject .illegalCmd s

/-! ## The checks of R224, in its order -/

/-- Check 2: port C may issue only NOP, the setters and READ_REG (R230). -/
def requirePortA (s : State) (k : Result) : Result :=
  if s.env.port = .c then reject .portDenied s else k

/-- Check 3: the command needs a session. -/
def requireSession (s : State) (k : Result) : Result :=
  if s.blk.session ≠ .prepared then reject .notPrepared s else k

/-- Check 5: the channel is one of the session's. -/
def requireChannel (ch : Nat) (s : State) (k : Result) : Result :=
  if s.blk.channelCount.toNat ≤ ch then reject .badChannel s else k

/-- Check 6: a block is latched. -/
def requireBlock (s : State) (k : Result) : Result :=
  if s.blk.blockValid then k else reject .noBlock s

/-- Check 7: the index is below the capacity, and is never reduced (20_memory.md R64). -/
def requireIndex (i : Nat) (s : State) (k : Result) : Result :=
  if s.blk.capacity.toNat ≤ i then reject .badIndex s else k

/-- Go on with a value that must exist; where it does not, the machine stops (notes/assumptions/7.md). -/
def orFault {α : Type} (o : Option α) (f : Fault) (k : α → Result) : Result :=
  match o with
  | none => .fault f
  | some x => k x

/-! ## Ports, arbitration, power-on reset -/

/-- What the coming step is about: no command, with the state that results, or a command taken from its port. -/
inductive Selected where
  | noCommand (s : State)
  | command (c : Command) (s : State)
deriving DecidableEq, Repr

/-- Take the command that waits at a port, if one does. Within a port the order is the order of issue (R69). -/
def serve (p : Port) (s : State) : Selected :=
  match p with
  | .a =>
    match s.env.pendA with
    | [] => .noCommand s
    | c :: rest => .command c { s with env := { s.env with pendA := rest, port := .a } }
  | .c =>
    match s.env.pendC with
    | [] => .noCommand s
    | c :: rest => .command c { s with env := { s.env with pendC := rest, port := .c } }

/-- Power-on reset: every piece of the block at its power-on value. The command waiting at each port is dropped
unexecuted and gets no response (70_reset_and_hazards.md R250). What an issuer issues after that is its own affair
(notes/assumptions/9.md). -/
def powerOnReset (s : State) : State :=
  { s with
    blk := Block.powerOn
    env := { s.env with pendA := s.env.pendA.tail, pendC := s.env.pendC.tail } }

/-- The arbiter with no decision given: it serves the one port where a command waits, and chooses freely between two
waiting commands (R69, `ARB`). With no command waiting the block is at rest (70_reset_and_hazards.md R260). -/
def arbitrate (s : State) : Selected :=
  match s.env.pendA, s.env.pendC with
  | [], [] => .noCommand s
  | _ :: _, [] => serve .a s
  | [], _ :: _ => serve .c s
  | _ :: _, _ :: _ =>
    serve (Config.arb s.env.arbTick) { s with env := { s.env with arbTick := s.env.arbTick + 1 } }

/-- What the coming step is about: the next decided turn, or the free arbiter. -/
def select (s : State) : Selected :=
  match s.env.turns with
  | [] => arbitrate s
  | .serve p :: ts => serve p { s with env := { s.env with turns := ts } }
  | .powerOn :: ts => .noCommand (powerOnReset { s with env := { s.env with turns := ts } })

/-- What the coming step does, once the words are decoded. -/
inductive Fetched where
  /-- no command executes -/
  | quiet (s : State)
  /-- the words of the command taken from its port are illegal -/
  | illegal (s : State)
  /-- a command was taken from its port -/
  | run (i : Instr) (s : State)
deriving DecidableEq, Repr

/-- Take the coming step's command from its port and decode it (30_encoding.md R98). -/
def fetch (s : State) : Fetched :=
  match select s with
  | .noCommand t => .quiet t
  | .command c t =>
    match decode c with
    | .legal i => .run i t
    | .illegal _ => .illegal t

/-- A command issued on a port: it waits behind those the port's issuer issued before it (R69, R70). -/
def State.issue (s : State) (p : Port) (c : Command) : State :=
  match p with
  | .a => { s with env := { s.env with pendA := s.env.pendA ++ [c] } }
  | .c => { s with env := { s.env with pendC := s.env.pendC ++ [c] } }

/-- A command list presented to the block, with the arbiter told to execute it in the order listed. -/
def State.present (s : State) : List (Port × Command) → State
  | [] => s
  | (p, c) :: rest =>
    State.present
      { s.issue p c with env := { (s.issue p c).env with turns := s.env.turns ++ [.serve p] } } rest

/-- A command at the head of port A's commands, with the arbiter turned to port A: the very next step takes it. -/
def State.withCommand (s : State) (c : Command) : State :=
  { s with env := { s.env with pendA := c :: s.env.pendA, turns := .serve .a :: s.env.turns } }

end Sys2Proof.Machine
end

