-- ==== Sys2Proof/Machine/Flags.lean ====
section
/-! DEFINITION. The status fields and the read-only register view (spec/10_state.md R34 to R36, spec/44_control.md
R202). The block has no condition codes: its flags are state written by the commands of R36 alone. -/

namespace Sys2Proof.Machine

/-- `PREPARED`: 1 if `SESSION = PREPARED` (R34). -/
def Block.preparedFlag (b : Block) : Bool := b.session = .prepared

/-- `STATUS`: `{24'b0, BYPASS, BLOCK_VALID, PREPARED, ERR_MULTI, ERR_CODE}` (R34, R202). -/
def Block.status (b : Block) : Word :=
  (0 : BitVec 24) ++ BitVec.ofBool b.bypass ++ BitVec.ofBool b.blockValid ++ BitVec.ofBool b.preparedFlag ++
    BitVec.ofBool b.errMulti ++ b.errCode

/-- The registers READ_REG reads, by number; `none` for a number outside the register space (R35, 20_memory.md R60). -/
def State.register (s : State) (n : Nat) : Option Word :=
  match n with
  | 0 => some s.blk.status
  | 1 => some s.blk.sampleRate
  | 2 => some s.blk.channelCount
  | 3 => some s.blk.capacity
  | 4 => some s.blk.delayMs
  | 5 => some s.blk.wetGain
  | 6 => some s.blk.delaySamples
  | 7 => some s.blk.gainLatched
  | 8 => some (s.cfg.chMax.setWidth 32)
  | 9 => some s.cfg.capMax
  | _ => none

end Sys2Proof.Machine
end

