-- ==== Sys2Proof/Machine/Operands.lean ====
section
/-! DEFINITION. The operand forms of spec/30_encoding.md R100. An operand is taken verbatim from its field: nothing is
sign-extended, scaled or shifted (R92). Samples, values, delay times, gains and rates are the word itself. -/

namespace Sys2Proof.Machine

/-- channel `= zext_32(CH)`, as a number. -/
def channel (ch : Field8) : Nat := (ch.setWidth 32).toNat

/-- channel count (PREPARE only) `= zext_32(CH)`. -/
def channelCountOperand (n : Field8) : Word := n.setWidth 32

/-- index, capacity and register number `= W1`, unsigned. -/
def indexOperand (w1 : Word) : Nat := w1.toNat

/-- The operand check of PREPARE, check 4 of 60_exceptions.md R224 (41_store.md R120). -/
def configOutOfRange (p : Params) (n : Field8) (cap rate : Word) : Bool :=
  (channelCountOperand n).toNat < 1 ∨ cap.toNat < 1 ∨ rate = 0 ∨
    p.chMax.toNat < (channelCountOperand n).toNat ∨ p.capMax.toNat < cap.toNat

end Sys2Proof.Machine
end

