-- ==== Sys2Proof/Machine/Control.lean ====
section
/-! DEFINITION. The control commands (spec/44_control.md). -/

namespace Sys2Proof.Machine

/-- NOP (R200). -/
def execNop (s : State) : Result := .next (respond 0x00000000 s)

/-- RELEASE (R201). -/
def execRelease (s : State) : Result :=
  requirePortA s <| .next (respond 0x00000000 { s with blk := s.blk.endSession })

/-- READ_REG (R202). A number above 9 has no encoding and is ILLEGAL_CMD (30_encoding.md R96 (c);
notes/assumptions/13.md). -/
def execReadReg (n : Word) (s : State) : Result :=
  match s.register (indexOperand n) with
  | some v => .next (respond v s)
  | none => reject .illegalCmd s

/-- CLEAR_ERR (R203). -/
def execClearErr (s : State) : Result :=
  requirePortA s <| .next (respond 0x00000000 { s with blk := s.blk.clearErrors })

end Sys2Proof.Machine
end

