-- ==== Sys2Proof/Machine/Engine.lean ====
section
/-! DEFINITION. The engine commands of the DelayEngine (spec/42_engine.md). Checks stand in the order of
spec/60_exceptions.md R224. -/

namespace Sys2Proof.Machine

/-- What the delay-time conversion answers (R150). -/
inductive Conversion where
  | range
  | bypass
  | delay (d : Nat)
deriving DecidableEq, Repr

/-- `floor(val(ms) * rate / 1000)`, exact: `val(ms)` is `f32Scaled ms` times 2^-149 (R150). -/
def delayCount (ms rate : Word) : Int := f32Scaled ms * rate.toNat / (1000 * 2 ^ 149)

/-- `convert(ms, rate, cap)` (R150). -/
def convert (ms rate cap : Word) : Conversion :=
  if isNaN ms ∨ ms = 0x7F800000 then .range
  else if ms = 0xFF800000 then .bypass
  else if delayCount ms rate < 1 then .bypass
  else if (cap.toNat : Int) < delayCount ms rate then .range
  else .delay (delayCount ms rate).toNat

/-- BEGIN_BLOCK (R151). DELAY_RANGE is the one rejection with an effect beyond the error record (60_exceptions.md
R222). -/
def execBeginBlock (s : State) : Result :=
  requirePortA s <| requireSession s <|
  match convert s.blk.delayMs s.blk.sampleRate s.blk.capacity with
  | .range => reject .delayRange { s with blk := s.blk.clearLatch }
  | .bypass => .next (respond 0x00000000 { s with blk := s.blk.setLatch true 0 })
  | .delay d => .next (respond (BitVec.ofNat 32 d) { s with blk := s.blk.setLatch false (BitVec.ofNat 32 d) })

/-- PROCESS_SAMPLE (R153). In bypass the input comes back bit for bit and nothing is touched. Otherwise the tap is
read before the dry sample is stored. -/
def execProcessSample (ch : Field8) (x : Word) (s : State) : Result :=
  requirePortA s <| requireSession s <| requireChannel (channel ch) s <| requireBlock s <|
  if s.blk.bypass then .next (respond x s)
  else
    orFault (s.blk.cursor (channel ch)) .noSuchCursor fun w =>
    orFault (s.blk.readCell (channel ch) (readCursor w s.blk.delaySamples s.blk.capacity)) .noSuchCell fun tap =>
    orFault (s.blk.writeCell (channel ch) w.toNat x) .noSuchCell fun b =>
    .next (respond (mix x tap s.blk.gainLatched)
      { s with blk := b.setCursor (channel ch) (advanceCursor s.blk.capacity w) })

/-- GET_READ_CURSOR (R155). -/
def execGetReadCursor (ch : Field8) (s : State) : Result :=
  requirePortA s <| requireSession s <| requireChannel (channel ch) s <| requireBlock s <|
  orFault (s.blk.cursor (channel ch)) .noSuchCursor fun w =>
  .next (respond (BitVec.ofInt 32 (readCursor w s.blk.delaySamples s.blk.capacity)) s)

end Sys2Proof.Machine
end

