-- ==== Sys2Proof/Machine/Parameters.lean ====
section
/-! DEFINITION. The parameter commands (spec/43_parameters.md). Patterns are stored verbatim, never validated. -/

namespace Sys2Proof.Machine

/-- SET_DELAY_MS (R190). -/
def execSetDelayMs (ms : Word) (s : State) : Result :=
  .next (respond 0x00000000 { s with blk := { s.blk with delayMs := ms } })

/-- SET_WET_GAIN (R191). -/
def execSetWetGain (g : Word) (s : State) : Result :=
  .next (respond 0x00000000 { s with blk := { s.blk with wetGain := g } })

end Sys2Proof.Machine
end

