-- ==== Sys2Proof/Machine/Store.lean ====
section
/-! DEFINITION. The store commands of the DelayLineStore (spec/41_store.md). Checks stand in the order of
spec/60_exceptions.md R224. -/

namespace Sys2Proof.Machine

/-- PREPARE (R120). A rejected PREPARE leaves the old session as it was. -/
def execPrepare (n : Field8) (cap rate : Word) (s : State) : Result :=
  requirePortA s <|
  if configOutOfRange s.cfg n cap rate then reject .badConfig s
  else .next (respond 0x00000000 { s with blk := s.blk.startSession (channelCountOperand n) cap rate })

/-- STORE_READ (R121). -/
def execStoreRead (ch : Field8) (i : Word) (s : State) : Result :=
  requirePortA s <| requireSession s <| requireChannel (channel ch) s <| requireIndex (indexOperand i) s <|
  orFault (s.blk.readCell (channel ch) (indexOperand i)) .noSuchCell fun v =>
  .next (respond v s)

/-- STORE_WRITE (R122). -/
def execStoreWrite (ch : Field8) (i v : Word) (s : State) : Result :=
  requirePortA s <| requireSession s <| requireChannel (channel ch) s <| requireIndex (indexOperand i) s <|
  orFault (s.blk.writeCell (channel ch) (indexOperand i) v) .noSuchCell fun b =>
  .next (respond 0x00000000 { s with blk := b })

/-- STORE_ADVANCE (R123). -/
def execStoreAdvance (ch : Field8) (s : State) : Result :=
  requirePortA s <| requireSession s <| requireChannel (channel ch) s <|
  orFault (s.blk.cursor (channel ch)) .noSuchCursor fun w =>
  .next (respond w { s with blk := s.blk.setCursor (channel ch) (advanceCursor s.blk.capacity w) })

/-- GET_CURSOR (R124). -/
def execGetCursor (ch : Field8) (s : State) : Result :=
  requirePortA s <| requireSession s <| requireChannel (channel ch) s <|
  orFault (s.blk.cursor (channel ch)) .noSuchCursor fun w =>
  .next (respond w s)

end Sys2Proof.Machine
end

