-- ==== Sys2Proof/Machine/Dispatch.lean ====
section
/-! DEFINITION. One arm per command, each one call of its meaning. -/

namespace Sys2Proof.Machine

def exec (i : Instr) (s : State) : Host.Outcome State Fault Refusal :=
  match i with
  | .nop => Sys2Proof.Machine.execNop s
  | .prepare n cap rate => Sys2Proof.Machine.execPrepare n cap rate s
  | .release => Sys2Proof.Machine.execRelease s
  | .setDelayMs ms => Sys2Proof.Machine.execSetDelayMs ms s
  | .setWetGain g => Sys2Proof.Machine.execSetWetGain g s
  | .beginBlock => Sys2Proof.Machine.execBeginBlock s
  | .processSample ch x => Sys2Proof.Machine.execProcessSample ch x s
  | .storeRead ch idx => Sys2Proof.Machine.execStoreRead ch idx s
  | .storeWrite ch idx v => Sys2Proof.Machine.execStoreWrite ch idx v s
  | .storeAdvance ch => Sys2Proof.Machine.execStoreAdvance ch s
  | .getCursor ch => Sys2Proof.Machine.execGetCursor ch s
  | .getReadCursor ch => Sys2Proof.Machine.execGetReadCursor ch s
  | .readReg n => Sys2Proof.Machine.execReadReg n s
  | .clearErr => Sys2Proof.Machine.execClearErr s

end Sys2Proof.Machine
end

