-- ==== Sys2Proof/Machine/Step.lean ====
section
/-! DEFINITION. One step: one command is one atomic step of the block (spec/00_scope.md R5, spec/20_memory.md R65). -/

namespace Sys2Proof.Machine

/-- One step of the machine: the command the arbiter takes from a port runs, or its illegal words are rejected. With
no command taken, the surroundings alone move on. -/
def step (s : State) : Host.Outcome State Fault Refusal :=
  match fetch s with
  | .quiet t => .next t
  | .illegal t => rejectIllegal t
  | .run i t => exec i t

/-- The command of a table word placed where the very next step takes it: at the head of port A, with the arbiter
turned to port A. -/
def State.withFetchWord (s : State) (nbits w : Nat) : State := s.withCommand (commandOfBits nbits w)

end Sys2Proof.Machine
end

