-- ==== Sys2Proof/Machine/Assembler.lean ====
section
/-! DEFINITION. The assembler of spec/30_encoding.md R101 and R102: one line of text to the commands it stands for,
each with its port. What R101 leaves open (white space, the decimal grammar, operands that do not fit) is said in
notes/assumptions/14.md. -/

namespace Sys2Proof.Machine

/-! ## Pseudo-instructions (R102) -/

/-- One processing call, channel by channel in channel order, from channel `ch` on: a `PROCESS_RUN` per list. -/
def expandLists (ch : Nat) : List (List Word) → List Instr
  | [] => []
  | xs :: rest => xs.map (.processSample (BitVec.ofNat 8 ch)) ++ expandLists (ch + 1) rest

/-- The commands a statement stands for (R102). -/
def AsmStmt.expand : AsmStmt → List Instr
  | .core i => [i]
  | .setParams ms g => [.setDelayMs ms, .setWetGain g]
  | .processRun ch xs => xs.map (.processSample ch)
  | .callBlock xss => .beginBlock :: expandLists 0 xss
  | .readStatus => [.readReg 0]

/-! ## Tokens -/

/-- Close a word under construction, its characters held last first. -/
def flushWord (cs : List Char) (rest : List Token) : List Token :=
  if cs.isEmpty then rest else .word cs.reverse :: rest

/-- The tokens of a line; `;` starts a comment (R101). -/
def tokenize (cur : List Char) : List Char → List Token
  | [] => flushWord cur []
  | c :: cs =>
    if c = ';' then flushWord cur []
    else if c = ' ' ∨ c = '\t' then flushWord cur (tokenize [] cs)
    else if c = ',' then flushWord cur (.comma :: tokenize [] cs)
    else if c = ':' then flushWord cur (.colon :: tokenize [] cs)
    else if c = '[' then flushWord cur (.openList :: tokenize [] cs)
    else if c = ']' then flushWord cur (.closeList :: tokenize [] cs)
    else tokenize (c :: cur) cs

/-- The optional port before a command; the default is port A (R101). -/
def portOf : List Token → Port × List Token
  | .word ['A'] :: .colon :: rest => (.a, rest)
  | .word ['C'] :: .colon :: rest => (.c, rest)
  | ts => (.a, ts)

/-- Operands separated by commas. -/
def operandWords : List Token → Option (List (List Char))
  | [] => some []
  | [.word w] => some [w]
  | .word w :: .comma :: rest => if rest.isEmpty then none else (operandWords rest).map (w :: ·)
  | _ => none

/-- Inside one bracketed list: its words, and what follows the closing bracket. `needWord` says that a word must
come next. -/
def bracketWords (needWord : Bool) (acc : List (List Char)) : List Token → Option (List (List Char) × List Token)
  | .closeList :: rest => if needWord && !acc.isEmpty then none else some (acc.reverse, rest)
  | .word w :: rest => if needWord then bracketWords false (w :: acc) rest else none
  | .comma :: rest => if needWord then none else bracketWords true acc rest
  | _ => none

/-- Bracketed lists separated by commas, at most `fuel` of them. -/
def bracketLists : Nat → List Token → Option (List (List (List Char)))
  | _, [] => some []
  | fuel + 1, .openList :: rest =>
    match bracketWords true [] rest with
    | some (ws, []) => some [ws]
    | some (ws, .comma :: .openList :: more) => (bracketLists fuel (.openList :: more)).map (ws :: ·)
    | _ => none
  | _, _ => none

/-! ## Numbers -/

/-- A decimal digit. -/
def decDigit (c : Char) : Option Nat :=
  if '0' ≤ c ∧ c ≤ '9' then some (c.toNat - '0'.toNat) else none

/-- A hexadecimal digit. -/
def hexDigit (c : Char) : Option Nat :=
  if 'a' ≤ c ∧ c ≤ 'f' then some (c.toNat - 'a'.toNat + 10)
  else if 'A' ≤ c ∧ c ≤ 'F' then some (c.toNat - 'A'.toNat + 10)
  else decDigit c

/-- The number of a digit string in a base, after `acc`. -/
def digitsFrom (base : Nat) (digit : Char → Option Nat) (acc : Nat) : List Char → Option Nat
  | [] => some acc
  | c :: cs =>
    match digit c with
    | none => none
    | some d => digitsFrom base digit (acc * base + d) cs

/-- The number of a digit string that holds at least one digit. -/
def digits (base : Nat) (digit : Char → Option Nat) (cs : List Char) : Option Nat :=
  if cs.isEmpty then none else digitsFrom base digit 0 cs

/-- A decimal or `0x` hexadecimal integer (R101). -/
def integer : List Char → Option Nat
  | '0' :: 'x' :: cs => digits 16 hexDigit cs
  | cs => digits 10 decDigit cs

/-- An integer operand that must fit in `w` bits. -/
def integerIn (w : Nat) (cs : List Char) : Option (BitVec w) :=
  match integer cs with
  | none => none
  | some n => if n < 2 ^ w then some (BitVec.ofNat w n) else none

/-- Split a decimal number at its point: the digits before and after it. -/
def splitPoint (acc : List Char) : List Char → List Char × List Char
  | [] => (acc.reverse, [])
  | c :: cs => if c = '.' then (acc.reverse, cs) else splitPoint (c :: acc) cs

/-- An unsigned decimal number as bits 30..0 of the nearest binary32 value, ties to even (R101). It must begin with a
digit, and may end in its point (`5.` is read as `5`): DESIGN CHOICE, R101 is silent (notes/assumptions/14.md). -/
def decimalFields (cs : List Char) : Option Nat :=
  let (whole, frac) := splitPoint [] cs
  if whole.isEmpty then none
  else
    match digitsFrom 10 decDigit 0 (whole ++ frac) with
    | none => none
    | some n => some (roundRatio n (10 ^ frac.length))

/-- A binary32 operand: an 8-digit `0x` pattern used verbatim, or a decimal number, rounded (R101). A decimal
number may carry a minus, `-` or U+2212, which sets the sign bit also of a zero: DESIGN CHOICE, R101 is silent on signs
(notes/assumptions/14.md). -/
def binary32 : List Char → Option Word
  | '0' :: 'x' :: cs => if cs.length = 8 then (digits 16 hexDigit cs).map (BitVec.ofNat 32) else none
  | '-' :: cs => (decimalFields cs).map (f32Pattern true)
  | '−' :: cs => (decimalFields cs).map (f32Pattern true)
  | cs => (decimalFields cs).map (f32Pattern false)

/-- The register names READ_REG also accepts (R101, 10_state.md R35). -/
def registerNames : List (List Char × Nat) :=
  [("STATUS".toList, 0), ("SAMPLE_RATE".toList, 1), ("CHANNEL_COUNT".toList, 2), ("CAPACITY".toList, 3),
   ("DELAY_MS".toList, 4), ("WET_GAIN".toList, 5), ("DELAY_SAMPLES".toList, 6), ("GAIN_LATCHED".toList, 7),
   ("CH_MAX".toList, 8), ("CAP_MAX".toList, 9)]

/-- READ_REG's operand: a register name or a number, which need not be below 10 (notes/assumptions/14.md). -/
def registerOperand (cs : List Char) : Option Word :=
  match registerNames.find? (fun r => r.1 == cs) with
  | some r => some (BitVec.ofNat 32 r.2)
  | none => integerIn 32 cs

/-- Every element, or nothing at all. -/
def allSome {α β : Type} (f : α → Option β) : List α → Option (List β)
  | [] => some []
  | a :: as =>
    match f a, allSome f as with
    | some b, some bs => some (b :: bs)
    | _, _ => none

/-! ## Lines -/

/-- A statement from its mnemonic and its plain operands, in the operand order of R101 and R102. -/
def statement (mnemonic : List Char) (ops : List (List Char)) : Option AsmStmt :=
  let is (name : String) : Bool := mnemonic == name.toList
  match ops with
  | [] =>
    if is "NOP" then some (.core .nop)
    else if is "RELEASE" then some (.core .release)
    else if is "BEGIN_BLOCK" then some (.core .beginBlock)
    else if is "CLEAR_ERR" then some (.core .clearErr)
    else if is "READ_STATUS" then some .readStatus
    else none
  | [x] =>
    if is "SET_DELAY_MS" then (binary32 x).map (fun ms => .core (.setDelayMs ms))
    else if is "SET_WET_GAIN" then (binary32 x).map (fun g => .core (.setWetGain g))
    else if is "STORE_ADVANCE" then (integerIn 8 x).map (fun ch => .core (.storeAdvance ch))
    else if is "GET_CURSOR" then (integerIn 8 x).map (fun ch => .core (.getCursor ch))
    else if is "GET_READ_CURSOR" then (integerIn 8 x).map (fun ch => .core (.getReadCursor ch))
    else if is "READ_REG" then (registerOperand x).map (fun n => .core (.readReg n))
    else if is "PROCESS_RUN" then (integerIn 8 x).map (fun ch => .processRun ch [])
    else none
  | x :: y :: rest =>
    if is "PROCESS_RUN" then
      match integerIn 8 x, allSome binary32 (y :: rest) with
      | some ch, some xs => some (.processRun ch xs)
      | _, _ => none
    else
      match rest with
      | [] =>
        if is "PROCESS_SAMPLE" then
          match integerIn 8 x, binary32 y with
          | some ch, some v => some (.core (.processSample ch v))
          | _, _ => none
        else if is "STORE_READ" then
          match integerIn 8 x, integerIn 32 y with
          | some ch, some i => some (.core (.storeRead ch i))
          | _, _ => none
        else if is "SET_PARAMS" then
          match binary32 x, binary32 y with
          | some ms, some g => some (.setParams ms g)
          | _, _ => none
        else none
      | [z] =>
        if is "PREPARE" then
          match integerIn 8 x, integerIn 32 y, integerIn 32 z with
          | some n, some cap, some rate => some (.core (.prepare n cap rate))
          | _, _, _ => none
        else if is "STORE_WRITE" then
          match integerIn 8 x, integerIn 32 y, binary32 z with
          | some ch, some i, some v => some (.core (.storeWrite ch i v))
          | _, _, _ => none
        else none
      | _ => none

/-- CALL_BLOCK's lists, at most one per channel number. -/
def callBlockStatement (ts : List Token) : Option AsmStmt :=
  match bracketLists 256 ts with
  | none => none
  | some ls => (allSome (allSome binary32) ls).map .callBlock

/-- The statement of one line of tokens, port taken off. -/
def parseStatement : List Token → Option AsmStmt
  | .word m :: rest =>
    if m == "CALL_BLOCK".toList then callBlockStatement rest
    else
      match operandWords rest with
      | none => none
      | some ops => statement m ops
  | _ => none

/-- The commands of one line of assembler text, each on the line's port; `none` for a line that is no statement. A
line with no token stands for no command (R101, R102). -/
def assembleLine (line : String) : Option (List (Port × Command)) :=
  match tokenize [] line.toList with
  | [] => some []
  | ts =>
    let (p, rest) := portOf ts
    match parseStatement rest with
    | none => none
    | some st => some ((AsmStmt.expand st).map (fun i => (p, encode i)))

end Sys2Proof.Machine
end

