-- ==== Sys2Proof/Safety.lean ====
section
/-! DEFINITION. What a good state and a safe run are, in the words statements use: the invariant of the block
(spec/10_state.md R23, R24, R27, R28, R32, R33), when an error applies (spec/60_exceptions.md R221, R224), rest
(spec/70_reset_and_hazards.md R260), and runs of commands. -/

namespace Sys2Proof.Machine

/-! ## The invariant -/

/-- The configuration registers: 0 without a session, inside their legal values in one (R28). -/
abbrev Block.ConfigInv (p : Params) (b : Block) : Prop :=
  (b.session = .unprepared → b.sampleRate = 0 ∧ b.channelCount = 0 ∧ b.capacity = 0) ∧
  (b.session = .prepared → b.sampleRate ≠ 0 ∧
    (1 ≤ b.channelCount.toNat ∧ b.channelCount.toNat ≤ p.chMax.toNat) ∧
    1 ≤ b.capacity.toNat ∧ b.capacity.toNat ≤ p.capMax.toNat)

/-- Storage is in canonical form and lists only cells of the sample space (R27, 20_memory.md R60). -/
abbrev Block.StorageInv (b : Block) : Prop :=
  Memory.wf b.rb ∧ ∀ e ∈ b.rb, e.1 / 2 ^ 32 < b.channelCount.toNat ∧ e.1 % 2 ^ 32 < b.capacity.toNat

/-- One write cursor per channel, each below the capacity (R23, R24). -/
abbrev Block.CursorInv (b : Block) : Prop :=
  b.wcur.length = b.channelCount.toNat ∧ ∀ w ∈ b.wcur.map BitVec.toNat, w < b.capacity.toNat

/-- The four clauses of the latch (R32). -/
abbrev Block.LatchInv (b : Block) : Prop :=
  (b.blockValid = false → b.bypass = false ∧ b.delaySamples = 0 ∧ b.gainLatched = 0x00000000) ∧
  (b.blockValid = true → b.bypass = true → b.delaySamples = 0) ∧
  (b.blockValid = true → b.bypass = false →
    1 ≤ b.delaySamples.toNat ∧ b.delaySamples.toNat ≤ b.capacity.toNat) ∧
  (b.blockValid = true → b.session = .prepared)

/-- The error record holds a code of R221, and `ERR_MULTI` only beside one (R33). -/
abbrev Block.ErrorInv (b : Block) : Prop :=
  b.errCode.toNat ≤ 8 ∧ (b.errMulti = true → b.errCode ≠ 0)

/-- The invariant every command keeps. -/
abbrev State.Inv (s : State) : Prop :=
  s.blk.ConfigInv s.cfg ∧ s.blk.StorageInv ∧ s.blk.CursorInv ∧ s.blk.LatchInv ∧ s.blk.ErrorInv

/-! ## When an error applies -/

/-- The channel a command names, if it takes one (30_encoding.md R93). PREPARE's `CH` is a count. -/
def channelTaken : Instr → Option Field8
  | .processSample ch _ | .storeRead ch _ | .storeWrite ch _ _ | .storeAdvance ch | .getCursor ch
  | .getReadCursor ch => some ch
  | .nop | .prepare _ _ _ | .release | .setDelayMs _ | .setWetGain _ | .beginBlock | .readReg _ | .clearErr => none

/-- The index a command names, if it takes one. -/
def indexTaken : Instr → Option Word
  | .storeRead _ i | .storeWrite _ i _ => some i
  | .nop | .prepare _ _ _ | .release | .setDelayMs _ | .setWetGain _ | .beginBlock | .processSample _ _
  | .storeAdvance _ | .getCursor _ | .getReadCursor _ | .readReg _ | .clearErr => none

/-- The commands port C may issue (60_exceptions.md R230). -/
def allowedOnC : Instr → Bool
  | .nop | .setDelayMs _ | .setWetGain _ | .readReg _ => true
  | .prepare _ _ _ | .release | .beginBlock | .processSample _ _ | .storeRead _ _ | .storeWrite _ _ _
  | .storeAdvance _ | .getCursor _ | .getReadCursor _ | .clearErr => false

/-- The commands that need a session (60_exceptions.md R224). -/
def needsSession : Instr → Bool
  | .beginBlock | .processSample _ _ | .storeRead _ _ | .storeWrite _ _ _ | .storeAdvance _ | .getCursor _
  | .getReadCursor _ => true
  | .nop | .prepare _ _ _ | .release | .setDelayMs _ | .setWetGain _ | .readReg _ | .clearErr => false

/-- The commands that need a latched block (60_exceptions.md R224). -/
def needsBlock : Instr → Bool
  | .processSample _ _ | .getReadCursor _ => true
  | .nop | .prepare _ _ _ | .release | .setDelayMs _ | .setWetGain _ | .beginBlock | .storeRead _ _
  | .storeWrite _ _ _ | .storeAdvance _ | .getCursor _ | .readReg _ | .clearErr => false

/-- The condition of one line of R224's list, on its own. -/
def errorApplies (e : ErrorCode) (i : Instr) (s : State) : Prop :=
  match e with
  | .illegalCmd => ¬ i.WellFormed
  | .portDenied => s.env.port = .c ∧ allowedOnC i = false
  | .notPrepared => needsSession i = true ∧ s.blk.session = .unprepared
  | .badConfig => ∃ n cap rate, i = .prepare n cap rate ∧
      (n = 0 ∨ s.cfg.chMax.toNat < n.toNat ∨ cap = 0 ∨ s.cfg.capMax.toNat < cap.toNat ∨ rate = 0)
  | .badChannel => ∃ ch, channelTaken i = some ch ∧ s.blk.channelCount.toNat ≤ ch.toNat
  | .noBlock => needsBlock i = true ∧ s.blk.blockValid = false
  | .badIndex => ∃ j, indexTaken i = some j ∧ s.blk.capacity.toNat ≤ j.toNat
  | .delayRange => i = .beginBlock ∧ convert s.blk.delayMs s.blk.sampleRate s.blk.capacity = .range

/-- The condition of one line of R224's list for three words: illegal words meet line 1 alone, for the other lines
speak of a command. -/
def errorAppliesTo (e : ErrorCode) (c : Command) (s : State) : Prop :=
  match decode c with
  | .legal i => errorApplies e i s
  | .illegal _ => e = .illegalCmd

/-! ## Decimal operands of the assembler (30_encoding.md R101) -/

/-- The character of a decimal digit. -/
def digitChar (d : Fin 10) : Char := Char.ofNat (48 + d.val)

/-- A decimal number written out: its whole digits, then a point and its fraction digits if it has any. -/
def decimalText (whole frac : List (Fin 10)) : List Char :=
  whole.map digitChar ++ (if frac = [] then [] else '.' :: frac.map digitChar)

/-- The number these digits write, the most significant digit first. -/
def decimalValue (whole frac : List (Fin 10)) : ℚ :=
  (Nat.ofDigits 10 ((whole ++ frac).map Fin.val).reverse : ℕ) / 10 ^ frac.length

/-! ## Runs -/

/-- A list of commands executed one after the other, as issued by the port the state names; it stops where a command
stops. -/
def execAll : List Instr → State → Result
  | [], s => .next s
  | i :: is, s =>
    match exec i s with
    | .next t => execAll is t
    | .fault f => .fault f
    | .refused r => .refused r

/-- At rest: no command waits at a port (70_reset_and_hazards.md R260). -/
abbrev State.atRest (s : State) : Prop := s.env.pendA = [] ∧ s.env.pendC = []

/-- Every response so far has code 0: the premise 60_exceptions.md section 4 asks of a claim about a program. -/
abbrev State.noError (s : State) : Prop :=
  (∀ r ∈ s.env.respA, r.status = 0) ∧ ∀ r ∈ s.env.respC, r.status = 0

/-- Channel `ch` is ready for PROCESS_SAMPLE outside bypass: port A, a session with that channel, a latched delay
(42_engine.md R153). -/
abbrev State.readyFor (s : State) (ch : Field8) : Prop :=
  s.env.port = .a ∧ s.blk.session = .prepared ∧ ch.toNat < s.blk.channelCount.toNat ∧
    s.blk.blockValid = true ∧ s.blk.bypass = false

/-- Two states look alike to channel `ch`: same parameters, configuration, latch, issuing port, and the same cells and
cursor of that channel (20_memory.md R67, 42_engine.md R161). The error record may differ. -/
def State.alikeFor (ch : Field8) (s t : State) : Prop :=
  s.cfg = t.cfg ∧ s.env.port = t.env.port ∧ s.blk.session = t.blk.session ∧
    s.blk.sampleRate = t.blk.sampleRate ∧ s.blk.channelCount = t.blk.channelCount ∧
    s.blk.capacity = t.blk.capacity ∧ s.blk.blockValid = t.blk.blockValid ∧ s.blk.bypass = t.blk.bypass ∧
    s.blk.delaySamples = t.blk.delaySamples ∧ s.blk.gainLatched = t.blk.gainLatched ∧
    s.blk.cursor ch.toNat = t.blk.cursor ch.toNat ∧
    ∀ j : Int, s.blk.readCell ch.toNat j = t.blk.readCell ch.toNat j

end Sys2Proof.Machine
end

