-- ==== Sys2Proof/Certificates/Slice0/Obligations.lean ====
section
/-! DEFINITION. The statements for the provers. Each formalises rules of spec/; OBLIGATIONS.json says which. -/

open Sys2Proof Sys2Proof.Machine

/-! ## Encoding (30_encoding.md) -/

/-- No bit of an encoding is dropped: the words of a well-formed command decode to it (R93, R98, R100, R101). -/
def Obligations.DecodeInvertsEncode : Prop :=
  ∀ i : Instr, i.WellFormed → decode (encode i) = .legal i

/-- The words of a decoded command are those its encoder writes, but for ignored words (R93, R97, R98). -/
def Obligations.EncodeRestoresUsedWords : Prop :=
  ∀ (c : Command) (i : Instr), decode c = .legal i →
    i.WellFormed ∧ (encode i).w0 = c.w0 ∧ (usesW1 i = true → (encode i).w1 = c.w1) ∧
      (usesW2 i = true → (encode i).w2 = c.w2)

/-- Three words are a command exactly under the conditions of R98's decoder. -/
def Obligations.LegalExactlyUnderTheDecodeRule : Prop :=
  ∀ c : Command,
    (∃ i, decode c = .legal i) ↔
      (c.w0.extractLsb' 24 8).toNat ≤ 0x0D ∧ c.w0.extractLsb' 0 16 = 0 ∧
        ((c.w0.extractLsb' 24 8).toNat ∈ [0x00, 0x02, 0x03, 0x04, 0x05, 0x0C, 0x0D] → c.w0.extractLsb' 16 8 = 0) ∧
        ((c.w0.extractLsb' 24 8).toNat = 0x0C → c.w1.toNat ≤ 9)

/-- Exactly one row of the table hits the header of a command, and it is the command's own; a header that no row hits
is illegal, and one that a row hits is illegal only through READ_REG's `W1` (R98, R96 (c)). -/
def Obligations.ExactlyOneTableRowHitsALegalHeader : Prop :=
  (∀ c i, decode c = .legal i →
    ∃ r ∈ opcodeTable, r.hits c.w0 = true ∧ r.mnemonic = mnemonicOf i ∧
      ∀ q ∈ opcodeTable, q.hits c.w0 = true → q = r) ∧
  (∀ c why, decode c = .illegal why →
    (∀ q ∈ opcodeTable, q.hits c.w0 = false) ∨ (c.w0 = 0x0C000000 ∧ 9 < c.w1.toNat))

/-- An ignored word never changes what three words decode to and never makes them illegal, and an assembler emits 0 in
it. So it changes neither effect nor response: where the commands taken from the ports differ in ignored words alone, the
steps have the same result (R97). -/
def Obligations.IgnoredWordsChangeNothing : Prop :=
  (∀ w0 w1 w2 i, decode ⟨w0, w1, w2⟩ = .legal i →
    (usesW1 i = false → (∀ v, decode ⟨w0, v, w2⟩ = .legal i) ∧ (encode i).w1 = 0) ∧
    (usesW2 i = false → (∀ v, decode ⟨w0, w1, v⟩ = .legal i) ∧ (encode i).w2 = 0)) ∧
  (∀ w0 w1 w2 why, decode ⟨w0, w1, w2⟩ = .illegal why →
    (∀ v, decode ⟨w0, w1, v⟩ = .illegal why) ∧
    ((w0.extractLsb' 24 8).toNat ≠ 0x0C → ∀ v, decode ⟨w0, v, w2⟩ = .illegal why)) ∧
  (∀ (s s' u : State) (c c' : Command) (i : Instr), select s = .command c u → select s' = .command c' u →
    decode c = .legal i → c'.w0 = c.w0 → (usesW1 i = true → c'.w1 = c.w1) → (usesW2 i = true → c'.w2 = c.w2) →
    step s' = step s)

/-- A few words written out from R93 decode to the commands they stand for (the example of R101 among them). -/
def Obligations.WrittenOutWordsDecode : Prop :=
  decode ⟨0x06010000, 0x00000000, 0x3F000000⟩ = .legal (.processSample 1 0x3F000000) ∧
    decode ⟨0x01020000, 0x00000004, 0x000003E8⟩ = .legal (.prepare 2 4 1000) ∧
    decode ⟨0x08000000, 0x00000003, 0x7FA00001⟩ = .legal (.storeWrite 0 3 0x7FA00001) ∧
    decode ⟨0x03000000, 0xDEADBEEF, 0x40A00000⟩ = .legal (.setDelayMs 0x40A00000) ∧
    decode ⟨0x0C000000, 9, 0⟩ = .legal (.readReg 9) ∧
    decode ⟨0x0C000000, 10, 0⟩ = .illegal .registerNumber ∧
    decode ⟨0x0E000000, 0, 0⟩ = .illegal .reservedOpcode ∧
    decode ⟨0x05000001, 0, 0⟩ = .illegal .reservedField ∧
    decode ⟨0x00010000, 0, 0⟩ = .illegal .channelField

/-! ## Steps, ports and reset -/

/-- A step runs the decoded command in the state that taking it from its port leaves (00_scope.md R5, 20_memory.md
R65), and these are the states and the command: the oldest of a served port, or of the one port where a command
waits, or of one of two waiting ports as `Config.arb` decides (20_memory.md R69). -/
def Obligations.StepRunsTheDecodedCommand : Prop :=
  (∀ s t c i, select s = .command c t → decode c = .legal i → step s = exec i t) ∧
  (∀ s c rest ts, s.env.turns = .serve .a :: ts → s.env.pendA = c :: rest →
    select s = .command c { s with env := { s.env with turns := ts, pendA := rest, port := .a } }) ∧
  (∀ s c rest ts, s.env.turns = .serve .c :: ts → s.env.pendC = c :: rest →
    select s = .command c { s with env := { s.env with turns := ts, pendC := rest, port := .c } }) ∧
  (∀ s c rest, s.env.turns = [] → s.env.pendA = c :: rest → s.env.pendC = [] →
    select s = .command c { s with env := { s.env with pendA := rest, port := .a } }) ∧
  (∀ s c rest, s.env.turns = [] → s.env.pendA = [] → s.env.pendC = c :: rest →
    select s = .command c { s with env := { s.env with pendC := rest, port := .c } }) ∧
  (∀ s a as c cs, s.env.turns = [] → s.env.pendA = a :: as → s.env.pendC = c :: cs →
    select s =
      match Config.arb s.env.arbTick with
      | .a => .command a
          { s with env := { s.env with pendA := as, port := .a, arbTick := s.env.arbTick + 1 } }
      | .c => .command c
          { s with env := { s.env with pendC := cs, port := .c, arbTick := s.env.arbTick + 1 } })

/-- A reserved opcode, a non-zero `RSV`, a non-zero `CH` that must be 0, and a READ_REG above 9 are rejected with
ILLEGAL_CMD on either port, with no effect besides the error record (30_encoding.md R95, R96). -/
def Obligations.IllegalWordsAreRejected : Prop :=
  ∀ s t c, select s = .command c t →
    (0x0E ≤ (c.w0.extractLsb' 24 8).toNat ∨ c.w0.extractLsb' 0 16 ≠ 0 ∨
      ((c.w0.extractLsb' 24 8).toNat ∈ [0x00, 0x02, 0x03, 0x04, 0x05, 0x0C, 0x0D] ∧ c.w0.extractLsb' 16 8 ≠ 0) ∨
      ((c.w0.extractLsb' 24 8).toNat = 0x0C ∧ 9 < c.w1.toNat)) →
    step s = .next
      { t with
        blk := { s.blk with
          errCode := if s.blk.errCode = 0 then 1 else s.blk.errCode
          errMulti := if s.blk.errCode = 0 then s.blk.errMulti else true }
        env := t.env.answer ⟨1, 0x00000000⟩ }

/-- A response goes to the port that issued the command and to no other (30_encoding.md R99, 00_scope.md R5). -/
def Obligations.ResponsesGoToTheIssuingPort : Prop :=
  ∀ (e : Env) (r : Response),
    (e.port = .a → e.answer r = { e with respA := e.respA ++ [r] }) ∧
    (e.port = .c → e.answer r = { e with respC := e.respC ++ [r] })

/-- Power-on reset gives every piece of state its power-on value and drops the command waiting at each port without a
response (70_reset_and_hazards.md R250, 10_state.md R39). That storage and cursors list nothing is the model's choice
(log 4), and so is that each issuer's later commands remain (log 9). -/
def Obligations.PowerOnResetRestoresTheTable : Prop :=
  ∀ s ts, s.env.turns = .powerOn :: ts →
    ∃ t, step s = .next t ∧
      t.blk =
        { session := .unprepared, sampleRate := 0, channelCount := 0, capacity := 0, rb := [], wcur := [],
          delayMs := 0, wetGain := 0, blockValid := false, bypass := false, delaySamples := 0, gainLatched := 0,
          errCode := 0, errMulti := false } ∧
      t.cfg = s.cfg ∧ t.env.pendA = s.env.pendA.tail ∧ t.env.pendC = s.env.pendC.tail ∧
      t.env.respA = s.env.respA ∧ t.env.respC = s.env.respC ∧ t.env.turns = ts

/-- With no command waiting and nothing decided the machine is at rest: a step changes nothing
(70_reset_and_hazards.md R260). That a step at rest answers the same state is the model's reading (log 12). -/
def Obligations.RestChangesNothing : Prop :=
  ∀ s : State, s.env.turns = [] → s.atRest → step s = .next s

/-- A step without a reset executes at most one command: the oldest of one port, answered by exactly one response on
that port, with code 0 to 8 and with result 0 if the code is not 0 (20_memory.md R69, R70; 30_encoding.md R99). -/
def Obligations.EachStepAnswersAtMostOneCommand : Prop :=
  ∀ s t, (∀ ts, s.env.turns ≠ .powerOn :: ts) → step s = .next t →
    (t.blk = s.blk ∧ t.env.pendA = s.env.pendA ∧ t.env.pendC = s.env.pendC ∧
      t.env.respA = s.env.respA ∧ t.env.respC = s.env.respC) ∨
    ∃ c r, r.status.toNat ≤ 8 ∧ (r.status ≠ 0 → r.result = 0) ∧
      ((s.env.pendA = c :: t.env.pendA ∧ t.env.pendC = s.env.pendC ∧
          t.env.respA = s.env.respA ++ [r] ∧ t.env.respC = s.env.respC) ∨
       (s.env.pendC = c :: t.env.pendC ∧ t.env.pendA = s.env.pendA ∧
          t.env.respC = s.env.respC ++ [r] ∧ t.env.respA = s.env.respA))

/-- However the arbiter decides, every waiting command is executed and answered on its own port within as many steps
as commands wait (20_memory.md R69, R70; 70_reset_and_hazards.md R259). -/
def Obligations.EveryWaitingCommandIsAnswered : Prop :=
  ∀ s : State, s.Inv → s.env.turns = [] →
    ∃ t : State, Host.Core.run Sys2Proof.core (s.env.pendA.length + s.env.pendC.length) s = .next t ∧
      t.atRest ∧ t.Inv ∧ t.env.respA.length = s.env.respA.length + s.env.pendA.length ∧
      t.env.respC.length = s.env.respC.length + s.env.pendC.length

/-! ## Invariants and whole-machine rules -/

/-- The invariant of the block (configuration, storage, cursors below the capacity, latch, error record) holds after
every step from every state that meets it (10_state.md R24, R28, R32, R33). -/
def Obligations.EveryStepKeepsTheInvariant : Prop :=
  ∀ s t : State, s.Inv → step s = .next t → t.Inv

/-- The power-on state meets the invariant, whatever the implementation parameters are. -/
def Obligations.ResetMeetsTheInvariant : Prop :=
  (∀ p : Params, (State.resetWith p).Inv) ∧ State.reset.Inv

/-- The block keeps accepting commands after any error: no step stops the machine (60_exceptions.md R220). -/
def Obligations.NoStepStopsTheMachine : Prop :=
  ∀ s : State, s.Inv → ∃ t, step s = .next t

/-- The implementation parameters are constants of the block (10_state.md R20), and they take exactly the values
00_scope.md R6 allows. -/
def Obligations.ImplementationParametersNeverChange : Prop :=
  (∀ s t : State, step s = .next t → t.cfg = s.cfg) ∧
  (∀ p : Params, (1 ≤ p.chMax.toNat ∧ p.chMax.toNat ≤ 255) ∧ 1 ≤ p.capMax.toNat ∧ p.capMax.toNat ≤ 2 ^ 32 - 1) ∧
  (∀ n cap : Nat, 1 ≤ n → n ≤ 255 → 1 ≤ cap → cap ≤ 2 ^ 32 - 1 →
    ∃ p : Params, p.chMax.toNat = n ∧ p.capMax.toNat = cap)

/-- Each piece of state outside storage is written by the commands named for it and by no other: the configuration by
PREPARE and RELEASE (10_state.md R28), the parameter registers by their setters (R29, R30), the latch by BEGIN_BLOCK,
PREPARE and RELEASE (R31). -/
def Obligations.RegistersHaveOnlyTheirNamedWriters : Prop :=
  ∀ (i : Instr) (s t : State), exec i s = .next t →
    ((∀ n cap rate, i ≠ .prepare n cap rate) → i ≠ .release →
      t.blk.session = s.blk.session ∧ t.blk.sampleRate = s.blk.sampleRate ∧
        t.blk.channelCount = s.blk.channelCount ∧ t.blk.capacity = s.blk.capacity ∧
        (i ≠ .beginBlock → t.blk.blockValid = s.blk.blockValid ∧ t.blk.bypass = s.blk.bypass ∧
          t.blk.delaySamples = s.blk.delaySamples ∧ t.blk.gainLatched = s.blk.gainLatched)) ∧
    ((∀ ms, i ≠ .setDelayMs ms) → t.blk.delayMs = s.blk.delayMs) ∧
    ((∀ g, i ≠ .setWetGain g) → t.blk.wetGain = s.blk.wetGain)

/-- Storage and cursors keep their values under every command that does not write them (10_state.md R23, R27;
20_memory.md R61). -/
def Obligations.OtherCommandsKeepStorageAndCursors : Prop :=
  ∀ (i : Instr) (s t : State), exec i s = .next t → (∀ n cap rate, i ≠ .prepare n cap rate) → i ≠ .release →
    (∀ ch x, i ≠ .processSample ch x) →
    ((∀ ch j v, i ≠ .storeWrite ch j v) →
      ∀ (ch : Nat) (j : Int), t.blk.readCell ch j = s.blk.readCell ch j) ∧
    ((∀ ch, i ≠ .storeAdvance ch) → ∀ ch : Nat, t.blk.cursor ch = s.blk.cursor ch)

/-! ## Errors (60_exceptions.md) -/

/-- A rejected command, legal or not, changes nothing but the error record, and its response is the code and 0;
DELAY_RANGE, which only BEGIN_BLOCK raises, also clears the latch (R222). Taking the command from its port is the
model's, in `u`. -/
def Obligations.RejectionChangesOnlyTheErrorRecord : Prop :=
  ∀ (c : Command) (s u t : State) (r : Response), select s = .command c u → step s = .next t →
    t.env = u.env.answer r → r.status ≠ 0 →
    r.result = 0 ∧ t.cfg = s.cfg ∧
    (if r.status = 8 then
      decode c = .legal .beginBlock ∧
        t.blk = { s.blk with blockValid := false, bypass := false, delaySamples := 0, gainLatched := 0,
                             errCode := t.blk.errCode, errMulti := t.blk.errMulti }
     else t.blk = { s.blk with errCode := t.blk.errCode, errMulti := t.blk.errMulti })

/-- The first code is kept, later ones set `ERR_MULTI`, and a successful command leaves the record alone, except
CLEAR_ERR, which clears it (R223). -/
def Obligations.FirstErrorIsKeptUntilCleared : Prop :=
  ∀ (c : Command) (s u t : State), select s = .command c u → step s = .next t →
    ∃ r, t.env = u.env.answer r ∧
      (if r.status = 0 then
        (if decode c = .legal .clearErr then t.blk.errCode = 0 ∧ t.blk.errMulti = false
         else t.blk.errCode = s.blk.errCode ∧ t.blk.errMulti = s.blk.errMulti)
       else if s.blk.errCode = 0 then t.blk.errCode = r.status ∧ t.blk.errMulti = s.blk.errMulti
       else t.blk.errCode = s.blk.errCode ∧ t.blk.errMulti = true)

/-- Of the errors of R224 that apply to a command, legal or not, the one with the lowest code rejects it; with none,
it succeeds. -/
def Obligations.LowestApplicableErrorRejects : Prop :=
  (∀ (e : ErrorCode) (c : Command) (s u : State), select s = .command c u → errorAppliesTo e c u →
    (∀ e', errorAppliesTo e' c u → e.code.toNat ≤ e'.code.toNat) →
    ∃ t, step s = .next t ∧ t.env = u.env.answer ⟨e.code, 0⟩) ∧
  (∀ (c : Command) (s u : State), s.Inv → select s = .command c u → (∀ e, ¬ errorAppliesTo e c u) →
    ∃ t v, step s = .next t ∧ t.env = u.env.answer ⟨0, v⟩)

/-- A legal command taken from port C is rejected with PORT_DENIED unless it is NOP, a setter or READ_REG, and those
four succeed (R230). -/
def Obligations.PortCMayIssueOnlyFourCommands : Prop :=
  ∀ (c : Command) (i : Instr) (s u : State), select s = .command c u → u.env.port = .c → decode c = .legal i →
    if (i = .nop ∨ (∃ ms, i = .setDelayMs ms) ∨ (∃ g, i = .setWetGain g) ∨ ∃ n, i = .readReg n) then
      ∃ t v, step s = .next t ∧ t.env = u.env.answer ⟨0, v⟩
    else ∃ t, step s = .next t ∧ t.env = u.env.answer ⟨2, 0⟩

/-- After PREPARE, and after a BEGIN_BLOCK rejected with DELAY_RANGE, PROCESS_SAMPLE and GET_READ_CURSOR on a channel
of the session answer NO_BLOCK; after RELEASE they answer NOT_PREPARED (70_reset_and_hazards.md R255). -/
def Obligations.AnInvalidatedLatchRejectsProcessing : Prop :=
  ∀ (i j : Instr) (s t : State) (r : Response) (ch : Field8),
    s.env.port = .a → exec i s = .next t → t.env = s.env.answer r → t.env.port = .a →
    ((∃ x, j = .processSample ch x) ∨ j = .getReadCursor ch) →
    (((∃ n cap rate, i = .prepare n cap rate ∧ r.status = 0) ∨ (i = .beginBlock ∧ r.status = 8)) →
      ch.toNat < t.blk.channelCount.toNat →
      ∃ u, exec j t = .next u ∧ u.env = t.env.answer ⟨6, 0⟩) ∧
    (i = .release → ∃ u, exec j t = .next u ∧ u.env = t.env.answer ⟨3, 0⟩)

/-! ## Control and parameter commands (44_control.md, 43_parameters.md) -/

/-- The header 0 is NOP, whatever the ignored words. NOP answers 0 and changes nothing, on either port and in either
session state (R200). -/
def Obligations.NopAnswersZero : Prop :=
  (∀ w1 w2, decode ⟨0x00000000, w1, w2⟩ = .legal .nop) ∧
  ∀ s : State, exec .nop s = .next { s with env := s.env.answer ⟨0, 0x00000000⟩ }

/-- SET_DELAY_MS and SET_WET_GAIN, with the headers of R190 and R191, store `W2` verbatim and change nothing else, on
either port and in either session state (R190, R191). -/
def Obligations.SettersStoreThePattern : Prop :=
  ∀ (w1 v : Word) (s : State),
    decode ⟨0x03000000, w1, v⟩ = .legal (.setDelayMs v) ∧ decode ⟨0x04000000, w1, v⟩ = .legal (.setWetGain v) ∧
    exec (.setDelayMs v) s =
      .next { s with blk := { s.blk with delayMs := v }, env := s.env.answer ⟨0, 0x00000000⟩ } ∧
    exec (.setWetGain v) s =
      .next { s with blk := { s.blk with wetGain := v }, env := s.env.answer ⟨0, 0x00000000⟩ }

/-- READ_REG answers the register of R35's table and changes nothing, on either port and in either session state; a
number above 9 is an illegal command (R35, R202). -/
def Obligations.ReadRegAnswersTheRegister : Prop :=
  ∀ s : State,
    (∀ (k : Nat) (v : Word),
      [s.blk.status, s.blk.sampleRate, s.blk.channelCount, s.blk.capacity, s.blk.delayMs, s.blk.wetGain,
        s.blk.delaySamples, s.blk.gainLatched, BitVec.ofNat 32 s.cfg.chMax.toNat, s.cfg.capMax][k]? = some v →
      (∀ w2, decode ⟨0x0C000000, BitVec.ofNat 32 k, w2⟩ = .legal (.readReg (BitVec.ofNat 32 k))) ∧
      exec (.readReg (BitVec.ofNat 32 k)) s = .next { s with env := s.env.answer ⟨0, v⟩ }) ∧
    (∀ n w2 : Word, 9 < n.toNat → decode ⟨0x0C000000, n, w2⟩ = .illegal .registerNumber)

/-- READ_REG 0 answers `STATUS`: ERR_CODE in bits 3..0, ERR_MULTI in bit 4, PREPARED in bit 5, BLOCK_VALID in bit 6,
BYPASS in bit 7, and 0 above (10_state.md R34). -/
def Obligations.StatusHoldsItsFields : Prop :=
  ∀ s : State, ∃ v : Word, exec (.readReg 0) s = .next { s with env := s.env.answer ⟨0, v⟩ } ∧
    v.toNat = s.blk.errCode.toNat + 16 * s.blk.errMulti.toNat + 32 * (if s.blk.session = .prepared then 1 else 0) +
      64 * s.blk.blockValid.toNat + 128 * s.blk.bypass.toNat

/-- RELEASE on port A ends the session in either session state: configuration 0, no cell and no cursor, latch cleared;
parameters and error record stay (R201). That storage and cursors list nothing is the model's choice (log 4). -/
def Obligations.ReleaseEndsTheSession : Prop :=
  ∀ s : State, s.env.port = .a →
    exec .release s = .next
      { s with
        blk := { s.blk with
          session := .unprepared, sampleRate := 0, channelCount := 0, capacity := 0, rb := [], wcur := [],
          blockValid := false, bypass := false, delaySamples := 0, gainLatched := 0x00000000 }
        env := s.env.answer ⟨0, 0x00000000⟩ }

/-- CLEAR_ERR on port A clears the error record and nothing else, in either session state. On port C it is rejected
with PORT_DENIED, which is itself recorded (R203). -/
def Obligations.ClearErrClearsOnlyTheRecord : Prop :=
  (∀ w1 w2, decode ⟨0x0D000000, w1, w2⟩ = .legal .clearErr) ∧
  ∀ s : State,
    (s.env.port = .a → exec .clearErr s = .next
      { s with blk := { s.blk with errCode := 0, errMulti := false }, env := s.env.answer ⟨0, 0x00000000⟩ }) ∧
    (s.env.port = .c → exec .clearErr s = .next
      { s with
        blk := { s.blk with
          errCode := if s.blk.errCode = 0 then 2 else s.blk.errCode
          errMulti := if s.blk.errCode = 0 then s.blk.errMulti else true }
        env := s.env.answer ⟨2, 0x00000000⟩ })

/-! ## Store commands (41_store.md) -/

/-- PREPARE with legal operands on port A starts a session of zero cells and zero cursors, and of no others; the latch
is cleared, parameters and error record stay (R120). -/
def Obligations.PrepareStartsAZeroedSession : Prop :=
  ∀ (n : Field8) (cap rate : Word) (s : State),
    s.env.port = .a → 1 ≤ n.toNat → n.toNat ≤ s.cfg.chMax.toNat → 1 ≤ cap.toNat →
    cap.toNat ≤ s.cfg.capMax.toNat → rate ≠ 0 →
    ∃ t, exec (.prepare n cap rate) s = .next t ∧ t.cfg = s.cfg ∧ t.env = s.env.answer ⟨0, 0⟩ ∧
      t.blk.session = .prepared ∧ t.blk.sampleRate = rate ∧ t.blk.channelCount.toNat = n.toNat ∧
      t.blk.capacity = cap ∧
      (∀ (ch : Nat) (j : Int), t.blk.readCell ch j =
        if ch < n.toNat ∧ 0 ≤ j ∧ j < cap.toNat then some 0x00000000 else none) ∧
      (∀ ch : Nat, t.blk.cursor ch = if ch < n.toNat then some 0 else none) ∧
      t.blk.blockValid = false ∧ t.blk.bypass = false ∧ t.blk.delaySamples = 0 ∧ t.blk.gainLatched = 0 ∧
      t.blk.delayMs = s.blk.delayMs ∧ t.blk.wetGain = s.blk.wetGain ∧ t.blk.errCode = s.blk.errCode ∧
      t.blk.errMulti = s.blk.errMulti

/-- PREPARE with an operand out of range is BAD_CONFIG and leaves the old session exactly as it was (R120). -/
def Obligations.RejectedPrepareKeepsTheOldSession : Prop :=
  ∀ (n : Field8) (cap rate : Word) (s : State),
    s.env.port = .a →
    (n.toNat = 0 ∨ s.cfg.chMax.toNat < n.toNat ∨ cap.toNat = 0 ∨ s.cfg.capMax.toNat < cap.toNat ∨ rate = 0) →
    ∃ t, exec (.prepare n cap rate) s = .next t ∧ t.cfg = s.cfg ∧ t.env = s.env.answer ⟨4, 0⟩ ∧
      t.blk = { s.blk with errCode := t.blk.errCode, errMulti := t.blk.errMulti }

/-- STORE_READ answers the cell bit for bit and changes nothing (R121). -/
def Obligations.StoreReadAnswersTheCell : Prop :=
  ∀ (ch : Field8) (i : Word) (s : State),
    s.env.port = .a → s.blk.session = .prepared → ch.toNat < s.blk.channelCount.toNat →
    i.toNat < s.blk.capacity.toNat →
    ∃ v, s.blk.readCell ch.toNat i.toNat = some v ∧
      exec (.storeRead ch i) s = .next { s with env := s.env.answer ⟨0, v⟩ }

/-- STORE_WRITE puts its pattern into the cell, where a STORE_READ finds it, and changes no other cell and nothing else
(R122, R126 (a), (b)). -/
def Obligations.StoreWriteWritesOnlyItsCell : Prop :=
  ∀ (ch : Field8) (i v : Word) (s : State), s.Inv →
    s.env.port = .a → s.blk.session = .prepared → ch.toNat < s.blk.channelCount.toNat →
    i.toNat < s.blk.capacity.toNat →
    ∃ t, exec (.storeWrite ch i v) s = .next t ∧ t.env = s.env.answer ⟨0, 0⟩ ∧ t.cfg = s.cfg ∧
      t.blk = { s.blk with rb := t.blk.rb } ∧
      t.blk.readCell ch.toNat i.toNat = some v ∧
      (∀ (ch' : Nat) (j : Int), (ch' ≠ ch.toNat ∨ j ≠ i.toNat) → t.blk.readCell ch' j = s.blk.readCell ch' j) ∧
      exec (.storeRead ch i) t = .next { t with env := t.env.answer ⟨0, v⟩ }

/-- STORE_ADVANCE answers the cursor and moves it to (w + 1) mod CAPACITY; every other cursor and everything else
stays (R123, 42_engine.md R156 (a)). -/
def Obligations.StoreAdvanceMovesOneCursor : Prop :=
  ∀ (ch : Field8) (s : State), s.Inv →
    s.env.port = .a → s.blk.session = .prepared → ch.toNat < s.blk.channelCount.toNat →
    ∃ t w w', s.blk.cursor ch.toNat = some w ∧ exec (.storeAdvance ch) s = .next t ∧
      t.env = s.env.answer ⟨0, w⟩ ∧ t.cfg = s.cfg ∧ t.blk = { s.blk with wcur := t.blk.wcur } ∧
      t.blk.cursor ch.toNat = some w' ∧ w'.toNat = (w.toNat + 1) % s.blk.capacity.toNat ∧
      ∀ ch' : Nat, ch' ≠ ch.toNat → t.blk.cursor ch' = s.blk.cursor ch'

/-- GET_CURSOR answers the write cursor, and GET_READ_CURSOR with a latched block answers
(cursor - DELAY_SAMPLES) mod CAPACITY; neither changes anything (R124, 42_engine.md R152, R155). -/
def Obligations.CursorReadsAnswerTheCursors : Prop :=
  ∀ (ch : Field8) (s : State), s.Inv →
    s.env.port = .a → s.blk.session = .prepared → ch.toNat < s.blk.channelCount.toNat →
    ∃ w, s.blk.cursor ch.toNat = some w ∧
      exec (.getCursor ch) s = .next { s with env := s.env.answer ⟨0, w⟩ } ∧
      (s.blk.blockValid = true →
        ∃ r : Word, exec (.getReadCursor ch) s = .next { s with env := s.env.answer ⟨0, r⟩ } ∧
          (r.toNat : Int) = ((w.toNat : Int) - s.blk.delaySamples.toNat) % s.blk.capacity.toNat)

/-- `k` advances of one channel move its cursor from w0 to (w0 + k) mod CAPACITY, be they STORE_ADVANCE or
PROCESS_SAMPLE outside bypass (R125, which the spec derives from R123 and R153). -/
def Obligations.AdvancesWrapAtTheCapacity : Prop :=
  ∀ (s : State) (ch : Field8) (is : List Instr) (w0 : Word), s.Inv → s.readyFor ch →
    s.blk.cursor ch.toNat = some w0 →
    (∀ i ∈ is, i = .storeAdvance ch ∨ ∃ x, i = .processSample ch x) →
    ∃ t w, execAll is s = .next t ∧ t.blk.cursor ch.toNat = some w ∧
      w.toNat = (w0.toNat + is.length) % s.blk.capacity.toNat

/-! ## Engine commands (42_engine.md) -/

/-- The conversion is the exact floor of val(ms) × rate / 1000 on rationals; NaN and +∞ give RANGE, -∞ gives
bypass; a delay lies between 1 and the capacity (R150). -/
def Obligations.ConversionIsTheExactFloor : Prop :=
  ∀ ms rate cap : Word,
    (isNaN ms = true ∨ ms = 0x7F800000 → convert ms rate cap = .range) ∧
    (ms = 0xFF800000 → convert ms rate cap = .bypass) ∧
    (isFinite ms = true →
      (⌊val ms * rate.toNat / 1000⌋ < 1 → convert ms rate cap = .bypass) ∧
      (1 ≤ ⌊val ms * rate.toNat / 1000⌋ → (cap.toNat : Int) < ⌊val ms * rate.toNat / 1000⌋ →
        convert ms rate cap = .range) ∧
      (∀ d : Nat, 1 ≤ d → d ≤ cap.toNat → (d : Int) = ⌊val ms * rate.toNat / 1000⌋ →
        convert ms rate cap = .delay d))

/-- BEGIN_BLOCK on port A in a session latches the wet gain and the converted delay, answers the count, and changes
nothing else (R151). -/
def Obligations.BeginBlockLatchesDelayAndGain : Prop :=
  ∀ s : State, s.env.port = .a → s.blk.session = .prepared →
    (convert s.blk.delayMs s.blk.sampleRate s.blk.capacity = .bypass →
      exec .beginBlock s = .next
        { s with
          blk := { s.blk with blockValid := true, bypass := true, delaySamples := 0, gainLatched := s.blk.wetGain }
          env := s.env.answer ⟨0, 0⟩ }) ∧
    (∀ d : Nat, convert s.blk.delayMs s.blk.sampleRate s.blk.capacity = .delay d →
      ∃ w : Word, w.toNat = d ∧ exec .beginBlock s = .next
        { s with
          blk := { s.blk with blockValid := true, bypass := false, delaySamples := w, gainLatched := s.blk.wetGain }
          env := s.env.answer ⟨0, w⟩ }) ∧
    (convert s.blk.delayMs s.blk.sampleRate s.blk.capacity = .range →
      ∃ t, exec .beginBlock s = .next t ∧ t.cfg = s.cfg ∧ t.env = s.env.answer ⟨8, 0⟩ ∧
        t.blk = { s.blk with blockValid := false, bypass := false, delaySamples := 0, gainLatched := 0,
                             errCode := t.blk.errCode, errMulti := t.blk.errMulti })

/-- The single wrap-around correction gives (w - d) mod cap, inside [0, cap); at d = cap the read cursor is the write
cursor (R152). -/
def Obligations.ReadCursorIsTheModularDifference : Prop :=
  ∀ w d cap : Word, w.toNat < cap.toNat → d.toNat ≤ cap.toNat →
    readCursor w d cap = ((w.toNat : Int) - d.toNat) % cap.toNat ∧
    0 ≤ readCursor w d cap ∧ readCursor w d cap < cap.toNat ∧
    (d = cap → readCursor w d cap = w.toNat)

/-- In bypass PROCESS_SAMPLE answers its input bit for bit and changes nothing (R153 step 3, R159). -/
def Obligations.BypassReturnsTheInput : Prop :=
  ∀ (ch : Field8) (x : Word) (s : State),
    s.env.port = .a → s.blk.session = .prepared → ch.toNat < s.blk.channelCount.toNat →
    s.blk.blockValid = true → s.blk.bypass = true →
    exec (.processSample ch x) s = .next { s with env := s.env.answer ⟨0, x⟩ }

/-- Outside bypass PROCESS_SAMPLE answers the mix of the dry sample with the tap that stood at
(cursor - DELAY_SAMPLES) mod CAPACITY before it, stores the dry sample verbatim at the cursor, advances the cursor,
and changes no other cell, no other cursor and nothing else (R153, R154). -/
def Obligations.ProcessSampleTapsStoresAndAdvances : Prop :=
  ∀ (ch : Field8) (x : Word) (s : State), s.Inv → s.readyFor ch →
    ∃ t w w' tap, s.blk.cursor ch.toNat = some w ∧
      s.blk.readCell ch.toNat (((w.toNat : Int) - s.blk.delaySamples.toNat) % s.blk.capacity.toNat) = some tap ∧
      exec (.processSample ch x) s = .next t ∧
      t.env = s.env.answer ⟨0, canon (f32Add x (f32Mul tap s.blk.gainLatched))⟩ ∧ t.cfg = s.cfg ∧
      t.blk = { s.blk with rb := t.blk.rb, wcur := t.blk.wcur } ∧
      t.blk.readCell ch.toNat w.toNat = some x ∧
      (∀ (ch' : Nat) (j : Int), (ch' ≠ ch.toNat ∨ j ≠ w.toNat) →
        t.blk.readCell ch' j = s.blk.readCell ch' j) ∧
      t.blk.cursor ch.toNat = some w' ∧ w'.toNat = (w.toNat + 1) % s.blk.capacity.toNat ∧
      ∀ ch' : Nat, ch' ≠ ch.toNat → t.blk.cursor ch' = s.blk.cursor ch'

/-- The delay line: a run of PROCESS_SAMPLE on one channel answers, at sample k, the mix of x_k with the dry sample of
d samples before, or with the cell the buffer held there before the run. So each dry sample is a tap once, and no
output is ever stored (R152, R153, R163). -/
def Obligations.ProcessedRunIsADelayLine : Prop :=
  ∀ (s : State) (ch : Field8) (xs : List Word) (w0 : Word), s.Inv → s.readyFor ch →
    s.blk.cursor ch.toNat = some w0 →
    ∃ (t : State) (ys : List Word), execAll (xs.map (.processSample ch)) s = .next t ∧
      t.env.respA = s.env.respA ++ ys.map (fun y => ⟨0, y⟩) ∧ ys.length = xs.length ∧
      ∀ (k : Nat) (x : Word), xs[k]? = some x →
        ∃ tap, ys[k]? = some (mix x tap s.blk.gainLatched) ∧
          (if s.blk.delaySamples.toNat ≤ k then xs[k - s.blk.delaySamples.toNat]? = some tap
           else s.blk.readCell ch.toNat
             (((w0.toNat : Int) + k - s.blk.delaySamples.toNat) % s.blk.capacity.toNat) = some tap)

/-- The impulse response: on a channel of +0 cells with a finite latched gain, the inputs 1.0, +0, +0, … come back as
1.0 at sample 0, the gain at sample d (+0 for a gain of -0), and +0 everywhere else (R158). -/
def Obligations.ImpulseComesBackOnceScaledByTheGain : Prop :=
  ∀ (s : State) (ch : Field8) (n : Nat), s.Inv → s.readyFor ch → isFinite s.blk.gainLatched = true →
    (∀ j : Int, 0 ≤ j → j < s.blk.capacity.toNat → s.blk.readCell ch.toNat j = some 0x00000000) →
    ∃ (t : State) (ys : List Word),
      execAll ((0x3F800000 :: List.replicate n 0x00000000).map (.processSample ch)) s = .next t ∧
      t.env.respA = s.env.respA ++ ys.map (fun y => ⟨0, y⟩) ∧ ys.length = n + 1 ∧
      ∀ k : Nat, k ≤ n → ys[k]? = some
        (if k = 0 then 0x3F800000
         else if k = s.blk.delaySamples.toNat ∧ s.blk.gainLatched ≠ 0x80000000 then s.blk.gainLatched
         else 0x00000000)

/-- Silence: on a channel of +0 cells with a finite latched gain, +0 inputs give +0 outputs and leave every cell of
the channel +0 (R160). Inputs of -0 give outputs that are 0 in value and leave every cell 0 in value, -0 once the whole
buffer is rewritten. The sign of such an output is the one R154 and R157 (b) compute, not always the + of R160's last
sentence: the model's choice between the rules (log 19). -/
def Obligations.SilenceStaysSilent : Prop :=
  ∀ (s : State) (ch : Field8) (n : Nat), s.Inv → s.readyFor ch → isFinite s.blk.gainLatched = true →
    (∀ j : Int, 0 ≤ j → j < s.blk.capacity.toNat → s.blk.readCell ch.toNat j = some 0x00000000) →
    (∃ t : State, execAll (List.replicate n (.processSample ch 0x00000000)) s = .next t ∧
      t.env.respA = s.env.respA ++ List.replicate n ⟨0, 0x00000000⟩ ∧
      ∀ j : Int, 0 ≤ j → j < s.blk.capacity.toNat → t.blk.readCell ch.toNat j = some 0x00000000) ∧
    (∃ (t : State) (ys : List Word), execAll (List.replicate n (.processSample ch 0x80000000)) s = .next t ∧
      t.env.respA = s.env.respA ++ ys.map (fun y => ⟨0, y⟩) ∧ ys.length = n ∧
      (∀ k : Nat, k < n → ys[k]? = some
        (if f32Sign s.blk.gainLatched = decide (s.blk.delaySamples.toNat ≤ k) then 0x00000000 else 0x80000000)) ∧
      ∀ j : Int, 0 ≤ j → j < s.blk.capacity.toNat →
        ∃ v, t.blk.readCell ch.toNat j = some v ∧ isZero v = true ∧ (s.blk.capacity.toNat ≤ n → v = 0x80000000))

/-- Parameters reach processing only through the latch: changing DELAY_MS and WET_GAIN changes neither the response of
PROCESS_SAMPLE or of any command but BEGIN_BLOCK, READ_REG and the setters, nor its other effects (43_parameters.md
R192). -/
def Obligations.ParametersActOnlyThroughTheLatch : Prop :=
  ∀ (i : Instr) (s t : State) (d g : Word), exec i s = .next t → i ≠ .beginBlock → (∀ n, i ≠ .readReg n) →
    (∀ v, i ≠ .setDelayMs v) → (∀ v, i ≠ .setWetGain v) →
    exec i { s with blk := { s.blk with delayMs := d, wetGain := g } } =
      .next { t with blk := { t.blk with delayMs := d, wetGain := g } }

/-! ## Channels (20_memory.md R67, R76; 42_engine.md R161) -/

/-- A command that takes a channel touches no cell and no cursor of another channel (R67). -/
def Obligations.ACommandTouchesOnlyItsChannel : Prop :=
  ∀ (i : Instr) (s t : State) (c : Field8), channelTaken i = some c → exec i s = .next t →
    ∀ ch : Nat, ch ≠ c.toNat →
      t.blk.cursor ch = s.blk.cursor ch ∧ ∀ j : Int, t.blk.readCell ch j = s.blk.readCell ch j

/-- Two successful commands on different channels commute: same final state of the block, and each gets the same
response (R76). -/
def Obligations.CommandsOnDifferentChannelsCommute : Prop :=
  ∀ (i j : Instr) (ci cj : Field8) (s t u : State) (vi vj : Word), s.Inv → s.env.port = .a →
    channelTaken i = some ci → channelTaken j = some cj → ci ≠ cj →
    exec i s = .next t → t.env = s.env.answer ⟨0, vi⟩ →
    exec j t = .next u → u.env = t.env.answer ⟨0, vj⟩ →
    ∃ t' u', exec j s = .next t' ∧ t'.env = s.env.answer ⟨0, vj⟩ ∧
      exec i t' = .next u' ∧ u'.env = t'.env.answer ⟨0, vi⟩ ∧ u'.blk = u.blk ∧ u'.cfg = u.cfg

/-- What a channel sees depends on no other channel: in two states alike to channel `c`, a command on `c` gets the
same response and leaves states alike to `c` (R161). -/
def Obligations.AChannelCannotSeeTheOthers : Prop :=
  ∀ (i : Instr) (c : Field8) (s s' t : State) (r : Response), s.Inv → s'.Inv →
    channelTaken i = some c → State.alikeFor c s s' → exec i s = .next t → t.env = s.env.answer r →
    ∃ t', exec i s' = .next t' ∧ t'.env = s'.env.answer r ∧ State.alikeFor c t t'

/-- The commands R66 names as changing nothing on success change no state, and its set-type commands, repeated with
nothing in between, give the same state and the same response again (R66). -/
def Obligations.RepeatingASetCommandChangesNothingMore : Prop :=
  ∀ (i : Instr) (s t : State) (v : Word), s.Inv → exec i s = .next t → t.env = s.env.answer ⟨0, v⟩ →
    ((i = .nop ∨ (∃ ch j, i = .storeRead ch j) ∨ (∃ ch, i = .getCursor ch) ∨ (∃ ch, i = .getReadCursor ch) ∨
        ∃ n, i = .readReg n) → t.blk = s.blk) ∧
    ((∀ ch x, i ≠ .processSample ch x) → (∀ ch, i ≠ .storeAdvance ch) →
      ∃ u, exec i t = .next u ∧ u.env = t.env.answer ⟨0, v⟩ ∧ u.blk = t.blk)

/-! ## binary32 (00_scope.md R9 to R11, 42_engine.md R154, R157, R162) -/

/-- A product of finite values that does not overflow is a nearest binary32 value, the one with the even significand
if two are nearest, with the sign of R10 (5) (R10 (1), (3), (5)). -/
def Obligations.ProductRoundsToNearestEven : Prop :=
  ∀ a b : Word, isFinite a = true → isFinite b = true → isFinite (f32Mul a b) = true →
    f32Sign (f32Mul a b) = (f32Sign a ^^ f32Sign b) ∧
    ∀ c : Word, isFinite c = true →
      |val a * val b - val (f32Mul a b)| ≤ |val a * val b - val c| ∧
      (|val a * val b - val (f32Mul a b)| = |val a * val b - val c| → val c ≠ val (f32Mul a b) →
        (f32Mul a b).getLsbD 0 = false)

/-- A sum of finite values that does not overflow is a nearest binary32 value, the even one on a tie; a sum that is
exactly zero is +0, unless both operands are negative, and otherwise the sign is that of the exact sum
(R10 (1), (3), (4)). -/
def Obligations.SumRoundsToNearestEven : Prop :=
  ∀ a b : Word, isFinite a = true → isFinite b = true → isFinite (f32Add a b) = true →
    (val a + val b = 0 →
      f32Add a b = if f32Sign a = true ∧ f32Sign b = true then 0x80000000 else 0x00000000) ∧
    (val a + val b ≠ 0 → f32Sign (f32Add a b) = decide (val a + val b < 0)) ∧
    ∀ c : Word, isFinite c = true →
      |val a + val b - val (f32Add a b)| ≤ |val a + val b - val c| ∧
      (|val a + val b - val (f32Add a b)| = |val a + val b - val c| → val c ≠ val (f32Add a b) →
        (f32Add a b).getLsbD 0 = false)

/-- A product or sum of finite values is infinite exactly where the exact result is at least halfway from the largest
finite value to 2^128, and has the exact result's sign (R10 (2)). -/
def Obligations.OverflowGivesInfinityOfTheExactSign : Prop :=
  ∀ a b : Word, isFinite a = true → isFinite b = true →
    (isFinite (f32Mul a b) = false ↔ (2 : ℚ) ^ 128 - 2 ^ 103 ≤ |val a * val b|) ∧
    (isFinite (f32Mul a b) = false →
      f32Mul a b = if val a * val b < 0 then 0xFF800000 else 0x7F800000) ∧
    (isFinite (f32Add a b) = false ↔ (2 : ℚ) ^ 128 - 2 ^ 103 ≤ |val a + val b|) ∧
    (isFinite (f32Add a b) = false →
      f32Add a b = if val a + val b < 0 then 0xFF800000 else 0x7F800000)

/-- NaN operands, infinity times zero and opposite infinities give NaN; other products and sums with an infinity are
infinite with the sign of R10 (6), (7). -/
def Obligations.InfinitiesAndNaNsFollowTheRule : Prop :=
  ∀ a b : Word,
    (isNaN a = true ∨ isNaN b = true → isNaN (f32Mul a b) = true ∧ isNaN (f32Add a b) = true) ∧
    ((isInf a = true ∧ isZero b = true) ∨ (isZero a = true ∧ isInf b = true) → isNaN (f32Mul a b) = true) ∧
    (isInf a = true → isNaN b = false → isZero b = false →
      isInf (f32Mul a b) = true ∧ f32Sign (f32Mul a b) = (f32Sign a ^^ f32Sign b) ∧ f32Mul b a = f32Mul a b) ∧
    (isInf a = true → isInf b = true → a ≠ b → isNaN (f32Add a b) = true) ∧
    (isInf a = true → isFinite b = true → f32Add a b = a ∧ f32Add b a = a) ∧
    (isInf a = true → f32Add a a = a)

/-- `canon` turns every NaN into `0x7FC00000` and keeps every other pattern (R11), so every NaN that leaves the mix is
`0x7FC00000`, and every other result of the sum leaves it unchanged (42_engine.md R154). -/
def Obligations.MixCanonicalisesEveryNaN : Prop :=
  (∀ b : Word, (isNaN b = true → canon b = 0x7FC00000) ∧ (isNaN b = false → canon b = b)) ∧
  ∀ x s g : Word,
    (isNaN (f32Add x (f32Mul s g)) = true → mix x s g = 0x7FC00000) ∧
    (isNaN (f32Add x (f32Mul s g)) = false → mix x s g = f32Add x (f32Mul s g)) ∧
    (isNaN (mix x s g) = true → mix x s g = 0x7FC00000)

/-- A zero product passes a dry sample through bit for bit, unless it is a NaN or -0; -0 comes out as +0 or -0 as the
product's sign is; a NaN anywhere, or infinity times zero, comes out as `0x7FC00000` (42_engine.md R157 (a) to (c)). -/
def Obligations.ZeroTapsPassTheDrySample : Prop :=
  ∀ x s g : Word,
    (isZero (f32Mul s g) = true → isNaN x = false → x ≠ 0x80000000 → mix x s g = x) ∧
    (f32Mul s g = 0x00000000 → mix 0x80000000 s g = 0x00000000) ∧
    (f32Mul s g = 0x80000000 → mix 0x80000000 s g = 0x80000000) ∧
    (isNaN x = true ∨ isNaN s = true ∨ isNaN g = true ∨ (isInf s = true ∧ isZero g = true) ∨
      (isZero s = true ∧ isInf g = true) → mix x s g = 0x7FC00000)

/-- Doubling a gain doubles the product exactly if the exact product is 0, or is at least 2^-126 in magnitude and the
doubled product is finite (42_engine.md R162). The premise that the doubled gain is finite is the model's
(log 18): without it the spec's sentence fails for a zero tap, whose product with an infinite gain is a NaN. -/
def Obligations.DoublingTheGainDoublesTheProduct : Prop :=
  ∀ s g : Word, isFinite s = true → isFinite g = true → isFinite (f32Mul g 0x40000000) = true →
    (val s * val g = 0 ∨
      ((2 : ℚ) ^ (-126 : ℤ) ≤ |val s * val g| ∧ isFinite (f32Mul s (f32Mul g 0x40000000)) = true)) →
    val (f32Mul s (f32Mul g 0x40000000)) = 2 * val (f32Mul s g)

/-! ## Assembler (30_encoding.md R102) -/

/-- The pseudo-instructions stand for the sequences of R102: CALL_BLOCK is BEGIN_BLOCK and then every channel's samples
in channel order, each list in ascending order. -/
def Obligations.PseudoInstructionsExpand : Prop :=
  (∀ ms g, AsmStmt.expand (.setParams ms g) = [.setDelayMs ms, .setWetGain g]) ∧
  (∀ ch xs, AsmStmt.expand (.processRun ch xs) = xs.map (.processSample ch)) ∧
  (AsmStmt.expand .readStatus = [.readReg 0]) ∧
  (∀ xss : List (List Word), AsmStmt.expand (.callBlock xss) =
    .beginBlock :: (xss.zipIdx.map fun p => p.1.map (.processSample (BitVec.ofNat 8 p.2))).flatten)

/-- A decimal operand of the assembler becomes a binary32 value nearest to the number its digits write, the even one on
a tie, or +∞ from halfway between the largest finite value and 2^128 on (R101). With a leading minus, `-` or `−`
(U+2212), it becomes the same pattern with the sign set, so a negated 0 is `0x80000000`: that clause is the model's
choice, R101 is silent on signs (log 14). -/
def Obligations.DecimalOperandsRoundToNearestEven : Prop :=
  ∀ whole frac : List (Fin 10), whole ≠ [] →
    ∃ p q : Word, binary32 (decimalText whole frac) = some p ∧ f32Sign p = false ∧
      (∀ minus ∈ ['-', '−'], binary32 (minus :: decimalText whole frac) = some q) ∧ q.toNat = p.toNat + 2 ^ 31 ∧
      ((2 : ℚ) ^ 128 - 2 ^ 103 ≤ decimalValue whole frac → p = 0x7F800000) ∧
      (decimalValue whole frac < (2 : ℚ) ^ 128 - 2 ^ 103 →
        isFinite p = true ∧ ∀ c : Word, isFinite c = true →
          |decimalValue whole frac - val p| ≤ |decimalValue whole frac - val c| ∧
          (|decimalValue whole frac - val p| = |decimalValue whole frac - val c| → val c ≠ val p →
            p.getLsbD 0 = false))

/-- The rounding of a non-negative rational, which the decimal conversion rests on, gives a nearest binary32 value, the
even one on a tie (R101). -/
def Obligations.RatiosRoundToNearestEven : Prop :=
  ∀ num den : Nat, 0 < den → isFinite (f32Pattern false (roundRatio num den)) = true →
    ∀ c : Word, isFinite c = true →
      |(num : ℚ) / den - val (f32Pattern false (roundRatio num den))| ≤ |(num : ℚ) / den - val c| ∧
      (|(num : ℚ) / den - val (f32Pattern false (roundRatio num den))| = |(num : ℚ) / den - val c| →
        val c ≠ val (f32Pattern false (roundRatio num den)) →
        (f32Pattern false (roundRatio num den)).getLsbD 0 = false)
end

