-- ==== Sys2Proof/Laws/Decode.lean ====
section
/-! SUPPORT. What the decoder of spec/30_encoding.md R98 can answer, said once. -/

namespace Sys2Proof

/-- A command names its own opcode, which is one of the fourteen. -/
theorem instrOf_some {op ch : Field8} {w1 w2 : Word} {i : Instr} (h : instrOf op ch w1 w2 = some i) :
    opcodeOf i = op ∧ op.toNat ≤ 0x0D := by
  have hop : BitVec.ofNat 8 op.toNat = op := by simp
  unfold instrOf at h
  split at h <;> simp at h <;> subst h <;> rename_i hn <;> rw [hn] at hop <;> exact ⟨hop, by omega⟩

/-- The opcodes that name no command are the reserved ones. -/
theorem instrOf_none (op ch : Field8) (w1 w2 : Word) : instrOf op ch w1 w2 = none ↔ 0x0D < op.toNat := by
  constructor
  · intro h
    by_contra hle
    unfold instrOf at h
    generalize op.toNat = k at h hle
    have hk : k ≤ 13 := by omega
    interval_cases k <;> simp at h
  · intro h
    cases hi : instrOf op ch w1 w2 with
    | none => rfl
    | some i => have := (instrOf_some hi).2; omega

/-- The command an opcode and a channel field give depends on the words it uses alone (R97). -/
theorem instrOf_congr {op ch : Field8} {w1 w2 v1 v2 : Word} {i : Instr} (h : instrOf op ch w1 w2 = some i)
    (h1 : usesW1 i = true → v1 = w1) (h2 : usesW2 i = true → v2 = w2) : instrOf op ch v1 v2 = some i := by
  unfold instrOf at *
  split at h <;> simp at h <;> subst h <;> simp_all [usesW1, usesW2]

/-- A legal command passed the four checks of R98. -/
theorem decode_legal {c : Command} {i : Instr} (h : decode c = .legal i) :
    instrOf (opField c.w0) (chField c.w0) c.w1 c.w2 = some i ∧ rsvField c.w0 = 0 ∧
      (chMustBeZero (opField c.w0) = true → chField c.w0 = 0) ∧ i.isWellFormed = true := by
  unfold decode at h
  split at h
  · simp at h
  · rename_i j hj
    split_ifs at h with h1 h2 h3
    simp only [Decoded.legal.injEq] at h
    subst h
    refine ⟨hj, by simpa using h1, fun hz => ?_, h3⟩
    by_contra hne
    exact h2 ⟨hz, hne⟩

end Sys2Proof
end

