-- ==== Sys2Proof/Laws/Memory.lean ====
section
/-! SUPPORT. Storage: a write keeps the canonical form, a read after a write to the same key gives the value written,
and a write leaves every other key alone. -/

namespace Sys2Proof.Machine

/-- Every key a write lists was listed before, or is the key written. -/
theorem Memory.key_of_mem_write {m : Memory} {k : Nat} {v : Word} {e : Nat × Word}
    (h : e ∈ Memory.write m k v) : e ∈ m ∨ (e = (k, v) ∧ v ≠ Memory.unlisted) := by
  induction m with
  | nil => unfold Memory.write at h; split at h <;> simp_all
  | cons x m ih =>
    obtain ⟨a, w⟩ := x
    unfold Memory.write at h
    split at h
    · split at h
      · exact .inl h
      · rcases List.mem_cons.mp h with h | h
        · exact .inr ⟨h, ‹_›⟩
        · exact .inl h
    · split at h
      · split at h
        · exact .inl (List.mem_cons_of_mem _ h)
        · rcases List.mem_cons.mp h with h | h
          · exact .inr ⟨h, ‹_›⟩
          · exact .inl (List.mem_cons_of_mem _ h)
      · rcases List.mem_cons.mp h with h | h
        · exact .inl (h ▸ List.mem_cons_self)
        · rcases ih h with h | h
          · exact .inl (List.mem_cons_of_mem _ h)
          · exact .inr h

/-- The empty storage is in canonical form. -/
theorem Memory.wf_nil : Memory.wf [] := by simp [Memory.wf]

/-- A write keeps the canonical form. -/
theorem Memory.wf_write {m : Memory} (k : Nat) (v : Word) (h : Memory.wf m) : Memory.wf (Memory.write m k v) := by
  induction m with
  | nil => unfold Memory.write; split <;> simp_all [Memory.wf]
  | cons x m ih =>
    obtain ⟨a, w⟩ := x
    obtain ⟨hs, hv⟩ := h
    have hs' := List.pairwise_cons.mp hs
    have hm : Memory.wf m := ⟨hs'.2, fun e he => hv e (List.mem_cons_of_mem _ he)⟩
    have hw := hv (a, w) List.mem_cons_self
    unfold Memory.write
    split
    · split
      · exact ⟨hs, hv⟩
      · refine ⟨List.pairwise_cons.mpr ⟨fun e he => ?_, hs⟩, fun e he => ?_⟩
        · rcases List.mem_cons.mp he with rfl | he
          · assumption
          · have := hs'.1 e he; simp only at this ⊢; omega
        · rcases List.mem_cons.mp he with rfl | he
          · assumption
          · exact hv e he
    · split
      · subst_vars
        split
        · exact hm
        · refine ⟨List.pairwise_cons.mpr ⟨fun e he => hs'.1 e he, hs'.2⟩, fun e he => ?_⟩
          rcases List.mem_cons.mp he with rfl | he
          · assumption
          · exact hm.2 e he
      · refine ⟨List.pairwise_cons.mpr ⟨fun e he => ?_, (ih hm).1⟩, fun e he => ?_⟩
        · rcases Memory.key_of_mem_write he with he | ⟨rfl, -⟩
          · exact hs'.1 e he
          · simp only; omega
        · rcases List.mem_cons.mp he with rfl | he
          · exact hw
          · exact (ih hm).2 e he

/-- A key below all listed keys reads as unlisted. -/
theorem Memory.read_below {m : Memory} {k : Nat} (h : ∀ e ∈ m, k < e.1) : Memory.read m k = Memory.unlisted := by
  induction m with
  | nil => rfl
  | cons x m ih =>
    obtain ⟨a, w⟩ := x
    have := h (a, w) List.mem_cons_self
    have hne : a ≠ k := by simp only at this; omega
    simp [Memory.read, hne, ih fun e he => h e (List.mem_cons_of_mem _ he)]

/-- A read after a write to the same key gives the value written. -/
theorem Memory.read_write_same {m : Memory} (k : Nat) (v : Word) (h : Memory.wf m) :
    Memory.read (Memory.write m k v) k = v := by
  induction m with
  | nil => unfold Memory.write; split <;> simp_all [Memory.read]
  | cons x m ih =>
    obtain ⟨a, w⟩ := x
    obtain ⟨hs, hv⟩ := h
    have hs' := List.pairwise_cons.mp hs
    have hm : Memory.wf m := ⟨hs'.2, fun e he => hv e (List.mem_cons_of_mem _ he)⟩
    unfold Memory.write
    split
    · have hne : a ≠ k := by omega
      have hb := Memory.read_below (m := m) (k := k) fun e he => by
        have := hs'.1 e he; simp only at this; omega
      split <;> simp_all [Memory.read]
    · split
      · subst_vars
        have hb := Memory.read_below (m := m) (k := a) hs'.1
        split <;> simp_all [Memory.read]
      · rw [Memory.read, if_neg ‹_›]; exact ih hm

/-- A write leaves every other key alone. -/
theorem Memory.read_write_other {m : Memory} {k k' : Nat} (v : Word) (h : k' ≠ k) :
    Memory.read (Memory.write m k v) k' = Memory.read m k' := by
  induction m with
  | nil => unfold Memory.write; split <;> simp [Memory.read, Ne.symm h]
  | cons x m ih =>
    obtain ⟨a, w⟩ := x
    unfold Memory.write
    split
    · split
      · rfl
      · rw [Memory.read, if_neg (Ne.symm h)]
    · split
      · subst_vars
        split
        · rw [Memory.read, if_neg (Ne.symm h)]
        · rw [Memory.read, Memory.read, if_neg (Ne.symm h), if_neg (Ne.symm h)]
      · rw [Memory.read, Memory.read, ih]

/-- Two storages in canonical form that read alike at every key are equal. -/
theorem Memory.eq_of_read {m m' : Memory} (h : Memory.wf m) (h' : Memory.wf m')
    (heq : ∀ k, Memory.read m k = Memory.read m' k) : m = m' := by
  induction m generalizing m' with
  | nil =>
    cases m' with
    | nil => rfl
    | cons y m' =>
      obtain ⟨b, u⟩ := y
      have := heq b
      simp only [Memory.read, if_true] at this
      exact absurd this.symm (h'.2 (b, u) List.mem_cons_self)
  | cons x m ih =>
    obtain ⟨a, w⟩ := x
    have hs := List.pairwise_cons.mp h.1
    cases m' with
    | nil =>
      have := heq a
      simp only [Memory.read, if_true] at this
      exact absurd this (h.2 (a, w) List.mem_cons_self)
    | cons y m' =>
      obtain ⟨b, u⟩ := y
      have hs' := List.pairwise_cons.mp h'.1
      have hab : a = b := by
        rcases Nat.lt_trichotomy a b with hlt | he | hgt
        · have h1 := heq a
          rw [Memory.read_below (m := (b, u) :: m') (k := a)] at h1
          · simp only [Memory.read, if_true] at h1
            exact absurd h1 (h.2 (a, w) List.mem_cons_self)
          · intro e he
            rcases List.mem_cons.mp he with rfl | he
            · exact hlt
            · exact Nat.lt_trans hlt (hs'.1 e he)
        · exact he
        · have h1 := heq b
          rw [Memory.read_below (m := (a, w) :: m) (k := b)] at h1
          · simp only [Memory.read, if_true] at h1
            exact absurd h1.symm (h'.2 (b, u) List.mem_cons_self)
          · intro e he
            rcases List.mem_cons.mp he with rfl | he
            · exact hgt
            · exact Nat.lt_trans hgt (hs.1 e he)
      subst hab
      have hwu : w = u := by simpa [Memory.read] using heq a
      subst hwu
      have hm : Memory.wf m := ⟨hs.2, fun e he => h.2 e (List.mem_cons_of_mem _ he)⟩
      have hm' : Memory.wf m' := ⟨hs'.2, fun e he => h'.2 e (List.mem_cons_of_mem _ he)⟩
      rw [ih hm hm' fun k => ?_]
      by_cases hk : a = k
      · subst hk
        rw [Memory.read_below hs.1, Memory.read_below hs'.1]
      · simpa [Memory.read, hk] using heq k

/-- Distinct cells have distinct keys. -/
theorem cellKey_inj {ch ch' i i' : Nat} (hi : i < 2 ^ 32) (hi' : i' < 2 ^ 32)
    (h : cellKey ch i = cellKey ch' i') : ch = ch' ∧ i = i' := by
  unfold cellKey at h; omega

end Sys2Proof.Machine
end

