-- ==== Sys2Proof/Laws/State.lean ====
section
/-! SUPPORT. One lemma per field per update of the state, all true by `rfl`: later proofs cite them (by `simp`) and
unfold no record update. -/

namespace Sys2Proof.Machine

/-! ### `Block.clearLatch` -/

@[simp] theorem Block.clearLatch_session (b : Block) : b.clearLatch.session = b.session := rfl
@[simp] theorem Block.clearLatch_sampleRate (b : Block) : b.clearLatch.sampleRate = b.sampleRate := rfl
@[simp] theorem Block.clearLatch_channelCount (b : Block) : b.clearLatch.channelCount = b.channelCount := rfl
@[simp] theorem Block.clearLatch_capacity (b : Block) : b.clearLatch.capacity = b.capacity := rfl
@[simp] theorem Block.clearLatch_rb (b : Block) : b.clearLatch.rb = b.rb := rfl
@[simp] theorem Block.clearLatch_wcur (b : Block) : b.clearLatch.wcur = b.wcur := rfl
@[simp] theorem Block.clearLatch_delayMs (b : Block) : b.clearLatch.delayMs = b.delayMs := rfl
@[simp] theorem Block.clearLatch_wetGain (b : Block) : b.clearLatch.wetGain = b.wetGain := rfl
@[simp] theorem Block.clearLatch_blockValid (b : Block) : b.clearLatch.blockValid = false := rfl
@[simp] theorem Block.clearLatch_bypass (b : Block) : b.clearLatch.bypass = false := rfl
@[simp] theorem Block.clearLatch_delaySamples (b : Block) : b.clearLatch.delaySamples = 0 := rfl
@[simp] theorem Block.clearLatch_gainLatched (b : Block) : b.clearLatch.gainLatched = 0 := rfl
@[simp] theorem Block.clearLatch_errCode (b : Block) : b.clearLatch.errCode = b.errCode := rfl
@[simp] theorem Block.clearLatch_errMulti (b : Block) : b.clearLatch.errMulti = b.errMulti := rfl

/-! ### `Block.setLatch` -/

@[simp] theorem Block.setLatch_session (b : Block) (y : Bool) (d : Word) : (b.setLatch y d).session = b.session := rfl
@[simp] theorem Block.setLatch_sampleRate (b : Block) (y : Bool) (d : Word) : (b.setLatch y d).sampleRate = b.sampleRate := rfl
@[simp] theorem Block.setLatch_channelCount (b : Block) (y : Bool) (d : Word) : (b.setLatch y d).channelCount = b.channelCount := rfl
@[simp] theorem Block.setLatch_capacity (b : Block) (y : Bool) (d : Word) : (b.setLatch y d).capacity = b.capacity := rfl
@[simp] theorem Block.setLatch_rb (b : Block) (y : Bool) (d : Word) : (b.setLatch y d).rb = b.rb := rfl
@[simp] theorem Block.setLatch_wcur (b : Block) (y : Bool) (d : Word) : (b.setLatch y d).wcur = b.wcur := rfl
@[simp] theorem Block.setLatch_delayMs (b : Block) (y : Bool) (d : Word) : (b.setLatch y d).delayMs = b.delayMs := rfl
@[simp] theorem Block.setLatch_wetGain (b : Block) (y : Bool) (d : Word) : (b.setLatch y d).wetGain = b.wetGain := rfl
@[simp] theorem Block.setLatch_blockValid (b : Block) (y : Bool) (d : Word) : (b.setLatch y d).blockValid = true := rfl
@[simp] theorem Block.setLatch_bypass (b : Block) (y : Bool) (d : Word) : (b.setLatch y d).bypass = y := rfl
@[simp] theorem Block.setLatch_delaySamples (b : Block) (y : Bool) (d : Word) : (b.setLatch y d).delaySamples = d := rfl
@[simp] theorem Block.setLatch_gainLatched (b : Block) (y : Bool) (d : Word) : (b.setLatch y d).gainLatched = b.wetGain := rfl
@[simp] theorem Block.setLatch_errCode (b : Block) (y : Bool) (d : Word) : (b.setLatch y d).errCode = b.errCode := rfl
@[simp] theorem Block.setLatch_errMulti (b : Block) (y : Bool) (d : Word) : (b.setLatch y d).errMulti = b.errMulti := rfl

/-! ### `Block.startSession` -/

@[simp] theorem Block.startSession_session (b : Block) (n cap rate : Word) : (b.startSession n cap rate).session = .prepared := rfl
@[simp] theorem Block.startSession_sampleRate (b : Block) (n cap rate : Word) : (b.startSession n cap rate).sampleRate = rate := rfl
@[simp] theorem Block.startSession_channelCount (b : Block) (n cap rate : Word) : (b.startSession n cap rate).channelCount = n := rfl
@[simp] theorem Block.startSession_capacity (b : Block) (n cap rate : Word) : (b.startSession n cap rate).capacity = cap := rfl
@[simp] theorem Block.startSession_rb (b : Block) (n cap rate : Word) : (b.startSession n cap rate).rb = [] := rfl
@[simp] theorem Block.startSession_wcur (b : Block) (n cap rate : Word) : (b.startSession n cap rate).wcur = List.replicate n.toNat 0 := rfl
@[simp] theorem Block.startSession_delayMs (b : Block) (n cap rate : Word) : (b.startSession n cap rate).delayMs = b.delayMs := rfl
@[simp] theorem Block.startSession_wetGain (b : Block) (n cap rate : Word) : (b.startSession n cap rate).wetGain = b.wetGain := rfl
@[simp] theorem Block.startSession_blockValid (b : Block) (n cap rate : Word) : (b.startSession n cap rate).blockValid = false := rfl
@[simp] theorem Block.startSession_bypass (b : Block) (n cap rate : Word) : (b.startSession n cap rate).bypass = false := rfl
@[simp] theorem Block.startSession_delaySamples (b : Block) (n cap rate : Word) : (b.startSession n cap rate).delaySamples = 0 := rfl
@[simp] theorem Block.startSession_gainLatched (b : Block) (n cap rate : Word) : (b.startSession n cap rate).gainLatched = 0 := rfl
@[simp] theorem Block.startSession_errCode (b : Block) (n cap rate : Word) : (b.startSession n cap rate).errCode = b.errCode := rfl
@[simp] theorem Block.startSession_errMulti (b : Block) (n cap rate : Word) : (b.startSession n cap rate).errMulti = b.errMulti := rfl

/-! ### `Block.endSession` -/

@[simp] theorem Block.endSession_session (b : Block) : b.endSession.session = .unprepared := rfl
@[simp] theorem Block.endSession_sampleRate (b : Block) : b.endSession.sampleRate = 0 := rfl
@[simp] theorem Block.endSession_channelCount (b : Block) : b.endSession.channelCount = 0 := rfl
@[simp] theorem Block.endSession_capacity (b : Block) : b.endSession.capacity = 0 := rfl
@[simp] theorem Block.endSession_rb (b : Block) : b.endSession.rb = [] := rfl
@[simp] theorem Block.endSession_wcur (b : Block) : b.endSession.wcur = [] := rfl
@[simp] theorem Block.endSession_delayMs (b : Block) : b.endSession.delayMs = b.delayMs := rfl
@[simp] theorem Block.endSession_wetGain (b : Block) : b.endSession.wetGain = b.wetGain := rfl
@[simp] theorem Block.endSession_blockValid (b : Block) : b.endSession.blockValid = false := rfl
@[simp] theorem Block.endSession_bypass (b : Block) : b.endSession.bypass = false := rfl
@[simp] theorem Block.endSession_delaySamples (b : Block) : b.endSession.delaySamples = 0 := rfl
@[simp] theorem Block.endSession_gainLatched (b : Block) : b.endSession.gainLatched = 0 := rfl
@[simp] theorem Block.endSession_errCode (b : Block) : b.endSession.errCode = b.errCode := rfl
@[simp] theorem Block.endSession_errMulti (b : Block) : b.endSession.errMulti = b.errMulti := rfl

/-! ### `Block.setCursor` -/

@[simp] theorem Block.setCursor_session (b : Block) (ch : Nat) (w : Word) : (b.setCursor ch w).session = b.session := rfl
@[simp] theorem Block.setCursor_sampleRate (b : Block) (ch : Nat) (w : Word) : (b.setCursor ch w).sampleRate = b.sampleRate := rfl
@[simp] theorem Block.setCursor_channelCount (b : Block) (ch : Nat) (w : Word) : (b.setCursor ch w).channelCount = b.channelCount := rfl
@[simp] theorem Block.setCursor_capacity (b : Block) (ch : Nat) (w : Word) : (b.setCursor ch w).capacity = b.capacity := rfl
@[simp] theorem Block.setCursor_rb (b : Block) (ch : Nat) (w : Word) : (b.setCursor ch w).rb = b.rb := rfl
@[simp] theorem Block.setCursor_wcur (b : Block) (ch : Nat) (w : Word) : (b.setCursor ch w).wcur = b.wcur.set ch w := rfl
@[simp] theorem Block.setCursor_delayMs (b : Block) (ch : Nat) (w : Word) : (b.setCursor ch w).delayMs = b.delayMs := rfl
@[simp] theorem Block.setCursor_wetGain (b : Block) (ch : Nat) (w : Word) : (b.setCursor ch w).wetGain = b.wetGain := rfl
@[simp] theorem Block.setCursor_blockValid (b : Block) (ch : Nat) (w : Word) : (b.setCursor ch w).blockValid = b.blockValid := rfl
@[simp] theorem Block.setCursor_bypass (b : Block) (ch : Nat) (w : Word) : (b.setCursor ch w).bypass = b.bypass := rfl
@[simp] theorem Block.setCursor_delaySamples (b : Block) (ch : Nat) (w : Word) : (b.setCursor ch w).delaySamples = b.delaySamples := rfl
@[simp] theorem Block.setCursor_gainLatched (b : Block) (ch : Nat) (w : Word) : (b.setCursor ch w).gainLatched = b.gainLatched := rfl
@[simp] theorem Block.setCursor_errCode (b : Block) (ch : Nat) (w : Word) : (b.setCursor ch w).errCode = b.errCode := rfl
@[simp] theorem Block.setCursor_errMulti (b : Block) (ch : Nat) (w : Word) : (b.setCursor ch w).errMulti = b.errMulti := rfl

/-! ### `Block.recordError` -/

@[simp] theorem Block.recordError_session (b : Block) (e : ErrorCode) : (b.recordError e).session = b.session := rfl
@[simp] theorem Block.recordError_sampleRate (b : Block) (e : ErrorCode) : (b.recordError e).sampleRate = b.sampleRate := rfl
@[simp] theorem Block.recordError_channelCount (b : Block) (e : ErrorCode) : (b.recordError e).channelCount = b.channelCount := rfl
@[simp] theorem Block.recordError_capacity (b : Block) (e : ErrorCode) : (b.recordError e).capacity = b.capacity := rfl
@[simp] theorem Block.recordError_rb (b : Block) (e : ErrorCode) : (b.recordError e).rb = b.rb := rfl
@[simp] theorem Block.recordError_wcur (b : Block) (e : ErrorCode) : (b.recordError e).wcur = b.wcur := rfl
@[simp] theorem Block.recordError_delayMs (b : Block) (e : ErrorCode) : (b.recordError e).delayMs = b.delayMs := rfl
@[simp] theorem Block.recordError_wetGain (b : Block) (e : ErrorCode) : (b.recordError e).wetGain = b.wetGain := rfl
@[simp] theorem Block.recordError_blockValid (b : Block) (e : ErrorCode) : (b.recordError e).blockValid = b.blockValid := rfl
@[simp] theorem Block.recordError_bypass (b : Block) (e : ErrorCode) : (b.recordError e).bypass = b.bypass := rfl
@[simp] theorem Block.recordError_delaySamples (b : Block) (e : ErrorCode) : (b.recordError e).delaySamples = b.delaySamples := rfl
@[simp] theorem Block.recordError_gainLatched (b : Block) (e : ErrorCode) : (b.recordError e).gainLatched = b.gainLatched := rfl
@[simp] theorem Block.recordError_errCode (b : Block) (e : ErrorCode) : (b.recordError e).errCode = if b.errCode = 0 then e.code else b.errCode := rfl
@[simp] theorem Block.recordError_errMulti (b : Block) (e : ErrorCode) : (b.recordError e).errMulti = if b.errCode = 0 then b.errMulti else true := rfl

/-! ### `Block.clearErrors` -/

@[simp] theorem Block.clearErrors_session (b : Block) : b.clearErrors.session = b.session := rfl
@[simp] theorem Block.clearErrors_sampleRate (b : Block) : b.clearErrors.sampleRate = b.sampleRate := rfl
@[simp] theorem Block.clearErrors_channelCount (b : Block) : b.clearErrors.channelCount = b.channelCount := rfl
@[simp] theorem Block.clearErrors_capacity (b : Block) : b.clearErrors.capacity = b.capacity := rfl
@[simp] theorem Block.clearErrors_rb (b : Block) : b.clearErrors.rb = b.rb := rfl
@[simp] theorem Block.clearErrors_wcur (b : Block) : b.clearErrors.wcur = b.wcur := rfl
@[simp] theorem Block.clearErrors_delayMs (b : Block) : b.clearErrors.delayMs = b.delayMs := rfl
@[simp] theorem Block.clearErrors_wetGain (b : Block) : b.clearErrors.wetGain = b.wetGain := rfl
@[simp] theorem Block.clearErrors_blockValid (b : Block) : b.clearErrors.blockValid = b.blockValid := rfl
@[simp] theorem Block.clearErrors_bypass (b : Block) : b.clearErrors.bypass = b.bypass := rfl
@[simp] theorem Block.clearErrors_delaySamples (b : Block) : b.clearErrors.delaySamples = b.delaySamples := rfl
@[simp] theorem Block.clearErrors_gainLatched (b : Block) : b.clearErrors.gainLatched = b.gainLatched := rfl
@[simp] theorem Block.clearErrors_errCode (b : Block) : b.clearErrors.errCode = 0 := rfl
@[simp] theorem Block.clearErrors_errMulti (b : Block) : b.clearErrors.errMulti = false := rfl

/-! ### `Env.answer`: the response goes to the issuing port and to no other -/

@[simp] theorem Env.answer_pendA (e : Env) (r : Response) : (e.answer r).pendA = e.pendA := rfl
@[simp] theorem Env.answer_pendC (e : Env) (r : Response) : (e.answer r).pendC = e.pendC := rfl
@[simp] theorem Env.answer_turns (e : Env) (r : Response) : (e.answer r).turns = e.turns := rfl
@[simp] theorem Env.answer_arbTick (e : Env) (r : Response) : (e.answer r).arbTick = e.arbTick := rfl
@[simp] theorem Env.answer_port (e : Env) (r : Response) : (e.answer r).port = e.port := rfl

theorem Env.answer_respA (e : Env) (r : Response) :
    (e.answer r).respA = match e.port with
      | .a => e.respA ++ [r]
      | .c => e.respA := rfl

theorem Env.answer_respC (e : Env) (r : Response) :
    (e.answer r).respC = match e.port with
      | .a => e.respC
      | .c => e.respC ++ [r] := rfl

/-! ### `respond`, `raiseError`, `State.withCommand`, `powerOnReset` -/

@[simp] theorem respond_blk (v : Word) (s : State) : (respond v s).blk = s.blk := rfl
@[simp] theorem respond_cfg (v : Word) (s : State) : (respond v s).cfg = s.cfg := rfl
@[simp] theorem respond_env (v : Word) (s : State) : (respond v s).env = s.env.answer ⟨0, v⟩ := rfl
@[simp] theorem raiseError_blk (e : ErrorCode) (s : State) : (raiseError e s).blk = s.blk.recordError e := rfl
@[simp] theorem raiseError_cfg (e : ErrorCode) (s : State) : (raiseError e s).cfg = s.cfg := rfl
@[simp] theorem raiseError_env (e : ErrorCode) (s : State) : (raiseError e s).env = s.env.answer ⟨e.code, 0⟩ := rfl
@[simp] theorem State.withCommand_blk (s : State) (c : Command) : (s.withCommand c).blk = s.blk := rfl
@[simp] theorem State.withCommand_cfg (s : State) (c : Command) : (s.withCommand c).cfg = s.cfg := rfl
@[simp] theorem powerOnReset_blk (s : State) : (powerOnReset s).blk = Block.powerOn := rfl
@[simp] theorem powerOnReset_cfg (s : State) : (powerOnReset s).cfg = s.cfg := rfl
@[simp] theorem powerOnReset_pendA (s : State) : (powerOnReset s).env.pendA = s.env.pendA.tail := rfl
@[simp] theorem powerOnReset_pendC (s : State) : (powerOnReset s).env.pendC = s.env.pendC.tail := rfl
@[simp] theorem powerOnReset_turns (s : State) : (powerOnReset s).env.turns = s.env.turns := rfl
@[simp] theorem powerOnReset_arbTick (s : State) : (powerOnReset s).env.arbTick = s.env.arbTick := rfl
@[simp] theorem powerOnReset_port (s : State) : (powerOnReset s).env.port = s.env.port := rfl
@[simp] theorem powerOnReset_respA (s : State) : (powerOnReset s).env.respA = s.env.respA := rfl
@[simp] theorem powerOnReset_respC (s : State) : (powerOnReset s).env.respC = s.env.respC := rfl

/-! ### The implementation parameters -/

@[simp] theorem Params.chMax_toNat (p : Params) : p.chMax.toNat = p.chMaxLess1.val + 1 := by
  have := p.chMaxLess1.isLt
  simp only [Params.chMax, BitVec.toNat_ofNat]
  omega
@[simp] theorem Params.capMax_toNat (p : Params) : p.capMax.toNat = p.capMaxLess1.val + 1 := by
  have := p.capMaxLess1.isLt
  simp only [Params.capMax, BitVec.toNat_ofNat]
  omega

/-! ### `State.reset` -/

@[simp] theorem State.resetWith_blk (p : Params) : (State.resetWith p).blk = Block.powerOn := rfl
@[simp] theorem State.resetWith_cfg (p : Params) : (State.resetWith p).cfg = p := rfl
@[simp] theorem State.resetWith_env (p : Params) : (State.resetWith p).env = Env.quiet := rfl

end Sys2Proof.Machine
end

