-- ==== Sys2Proof/Laws/Ops.lean ====
section
/-! SUPPORT. For each shared operation, one lemma that says what it can do. A check either rejects or goes on; an
access either finds what it names or stops; a step takes a command from a port, or takes none. -/

namespace Sys2Proof.Machine

/-! ## Checks -/

theorem Port.eq_a_or_c (p : Port) : p = .a ∨ p = .c := by cases p <;> simp

/-- The port check answers its own rejection on port C, and what follows it on port A. -/
theorem requirePortA_eq (s : State) (k : Result) :
    (s.env.port = .c ∧ requirePortA s k = .next (raiseError .portDenied s)) ∨
      (s.env.port = .a ∧ requirePortA s k = k) := by
  rcases Port.eq_a_or_c s.env.port with h | h <;> simp [requirePortA, reject, h]

/-- The session check. -/
theorem requireSession_eq (s : State) (k : Result) :
    (s.blk.session = .unprepared ∧ requireSession s k = .next (raiseError .notPrepared s)) ∨
      (s.blk.session = .prepared ∧ requireSession s k = k) := by
  cases h : s.blk.session <;> simp [requireSession, reject, h]

/-- The channel check. -/
theorem requireChannel_eq (ch : Nat) (s : State) (k : Result) :
    (s.blk.channelCount.toNat ≤ ch ∧ requireChannel ch s k = .next (raiseError .badChannel s)) ∨
      (ch < s.blk.channelCount.toNat ∧ requireChannel ch s k = k) := by
  unfold requireChannel; split
  · exact .inl ⟨‹_›, rfl⟩
  · exact .inr ⟨by omega, rfl⟩

/-- The block check. -/
theorem requireBlock_eq (s : State) (k : Result) :
    (s.blk.blockValid = false ∧ requireBlock s k = .next (raiseError .noBlock s)) ∨
      (s.blk.blockValid = true ∧ requireBlock s k = k) := by
  cases h : s.blk.blockValid <;> simp [requireBlock, reject, h]

/-- The index check. -/
theorem requireIndex_eq (i : Nat) (s : State) (k : Result) :
    (s.blk.capacity.toNat ≤ i ∧ requireIndex i s k = .next (raiseError .badIndex s)) ∨
      (i < s.blk.capacity.toNat ∧ requireIndex i s k = k) := by
  unfold requireIndex; split
  · exact .inl ⟨‹_›, rfl⟩
  · exact .inr ⟨by omega, rfl⟩

/-- An access that answers a next state found what it names. -/
theorem orFault_next {α : Type} {o : Option α} {f : Fault} {k : α → Result} {t : State}
    (h : orFault o f k = .next t) : ∃ x, o = some x ∧ k x = .next t := by
  cases o with
  | none => cases h
  | some x => exact ⟨x, rfl, h⟩

@[simp] theorem orFault_some {α : Type} (x : α) (f : Fault) (k : α → Result) : orFault (some x) f k = k x := rfl

/-! ## Cells and cursors -/

@[simp] theorem channel_eq (ch : Field8) : channel ch = ch.toNat := by simp [channel]; omega

@[simp] theorem channelCountOperand_toNat (n : Field8) : (channelCountOperand n).toNat = n.toNat := by
  simp [channelCountOperand]; omega

/-- When a cell exists. -/
theorem Block.hasCell_iff (b : Block) (ch : Nat) (i : Int) :
    b.hasCell ch i = true ↔
      b.session = .prepared ∧ ch < b.channelCount.toNat ∧ 0 ≤ i ∧ i < b.capacity.toNat := by
  simp [Block.hasCell]

/-- What a read of a cell answers. -/
theorem Block.readCell_eq (b : Block) (ch : Nat) (i : Int) :
    (b.hasCell ch i = true ∧ b.readCell ch i = some (b.rb.read (cellKey ch i.toNat))) ∨
      (b.hasCell ch i = false ∧ b.readCell ch i = none) := by
  cases h : b.hasCell ch i <;> simp [Block.readCell, h]

/-- What a write of a cell leaves: the storage alone changes, at the cell's key. -/
theorem Block.writeCell_some {b b' : Block} {ch : Nat} {i : Int} {v : Word} (h : b.writeCell ch i v = some b') :
    b.hasCell ch i = true ∧ b' = { b with rb := b.rb.write (cellKey ch i.toNat) v } := by
  unfold Block.writeCell at h
  split at h
  · exact ⟨‹_›, (Option.some.inj h).symm⟩
  · cases h

/-- The cursor increment is `(w + 1) mod CAPACITY` (42_engine.md R156 (a)). -/
theorem advanceCursor_toNat {cap w : Word} (h : w.toNat < cap.toNat) :
    (advanceCursor cap w).toNat = (w.toNat + 1) % cap.toNat := by
  unfold advanceCursor
  split
  · rename_i hw; simp [hw]
  · have := cap.isLt
    rw [BitVec.toNat_ofNat, Nat.mod_eq_of_lt (by omega), Nat.mod_eq_of_lt (by omega)]

/-! ## Register numbers -/

/-- The register space holds the numbers 0 to 9 and no other (20_memory.md R60 (2)). -/
theorem State.register_isSome (s : State) (n : Nat) : (s.register n).isSome = true ↔ n ≤ 9 := by
  rcases Nat.lt_or_ge 9 n with h | h
  · obtain ⟨m, rfl⟩ : ∃ m, n = m + 10 := ⟨n - 10, by omega⟩
    simp [State.register]
  · interval_cases n <;> simp [State.register]

/-! ## Ports -/

/-- What serving a port can do: nothing waits there, or the port's oldest command is taken. -/
theorem serve_eq (p : Port) (s : State) :
    (serve p s = .noCommand s) ∨
      (p = .a ∧ ∃ c rest, s.env.pendA = c :: rest ∧
        serve p s = .command c { s with env := { s.env with pendA := rest, port := .a } }) ∨
      (p = .c ∧ ∃ c rest, s.env.pendC = c :: rest ∧
        serve p s = .command c { s with env := { s.env with pendC := rest, port := .c } }) := by
  cases p with
  | a => cases h : s.env.pendA <;> simp [serve, h]
  | c => cases h : s.env.pendC <;> simp [serve, h]

/-- What a selection leaves of the block and its parameters: all of it, but for a power-on reset. -/
theorem select_command_frame {s t : State} {c : Command} (h : select s = .command c t) :
    t.blk = s.blk ∧ t.cfg = s.cfg ∧ t.env.respA = s.env.respA ∧ t.env.respC = s.env.respC := by
  have key : ∀ (p : Port) (u : State), u.blk = s.blk → u.cfg = s.cfg → u.env.respA = s.env.respA →
      u.env.respC = s.env.respC → serve p u = .command c t →
      t.blk = s.blk ∧ t.cfg = s.cfg ∧ t.env.respA = s.env.respA ∧ t.env.respC = s.env.respC := by
    intro p u h1 h2 h3 h4 hu
    rcases serve_eq p u with h0 | ⟨-, _, _, -, h0⟩ | ⟨-, _, _, -, h0⟩
    · rw [h0] at hu; cases hu
    · rw [h0] at hu; cases hu; exact ⟨h1, h2, h3, h4⟩
    · rw [h0] at hu; cases hu; exact ⟨h1, h2, h3, h4⟩
  unfold select at h
  split at h
  · unfold arbitrate at h
    split at h
    · cases h
    · refine key _ _ ?_ ?_ ?_ ?_ h <;> rfl
    · refine key _ _ ?_ ?_ ?_ ?_ h <;> rfl
    · refine key _ _ ?_ ?_ ?_ ?_ h <;> rfl
  · refine key _ _ ?_ ?_ ?_ ?_ h <;> rfl
  · cases h

/-- What one step is: no command is taken, illegal words are rejected, or the decoded command runs. -/
theorem step_eq (s : State) :
    (∃ t, select s = .noCommand t ∧ step s = .next t) ∨
      (∃ c t why, select s = .command c t ∧ decode c = .illegal why ∧ step s = .next (raiseError .illegalCmd t)) ∨
      (∃ c t i, select s = .command c t ∧ decode c = .legal i ∧ step s = exec i t) := by
  cases h : select s with
  | noCommand t => exact .inl ⟨t, rfl, by simp [step, fetch, h]⟩
  | command c t =>
    cases hd : decode c with
    | legal i => exact .inr (.inr ⟨c, t, i, rfl, hd, by simp [step, fetch, h, hd]⟩)
    | illegal why => exact .inr (.inl ⟨c, t, why, rfl, hd, by simp [step, fetch, h, hd, rejectIllegal, reject]⟩)

/-- A command placed by `withCommand` is what the very next step takes. -/
theorem select_withCommand (s : State) (c : Command) :
    select (s.withCommand c) = .command c { s with env := { s.env with port := .a } } := rfl

end Sys2Proof.Machine
end

