-- ==== Sys2Proof/Laws/Exec.lean ====
section
/-! SUPPORT. What each command can do, said once: if its meaning answers a next state, the command was rejected with
one of the errors spec/60_exceptions.md R221 lists for it, or it had exactly the effect shown. -/

namespace Sys2Proof.Machine

/-- An outcome that is a rejection with an error of the list. -/
def RejectedWith (es : List ErrorCode) (s t : State) : Prop := ∃ e ∈ es, t = raiseError e s

theorem requirePortA_next {s t : State} {k : Result} (h : requirePortA s k = .next t) :
    t = raiseError .portDenied s ∨ (s.env.port = .a ∧ k = .next t) := by
  rcases requirePortA_eq s k with ⟨-, he⟩ | ⟨hp, he⟩
  · rw [he] at h; cases h; exact .inl rfl
  · exact .inr ⟨hp, he ▸ h⟩

theorem requireSession_next {s t : State} {k : Result} (h : requireSession s k = .next t) :
    t = raiseError .notPrepared s ∨ (s.blk.session = .prepared ∧ k = .next t) := by
  rcases requireSession_eq s k with ⟨-, he⟩ | ⟨hp, he⟩
  · rw [he] at h; cases h; exact .inl rfl
  · exact .inr ⟨hp, he ▸ h⟩

theorem requireChannel_next {ch : Nat} {s t : State} {k : Result} (h : requireChannel ch s k = .next t) :
    t = raiseError .badChannel s ∨ (ch < s.blk.channelCount.toNat ∧ k = .next t) := by
  rcases requireChannel_eq ch s k with ⟨-, he⟩ | ⟨hp, he⟩
  · rw [he] at h; cases h; exact .inl rfl
  · exact .inr ⟨hp, he ▸ h⟩

theorem requireBlock_next {s t : State} {k : Result} (h : requireBlock s k = .next t) :
    t = raiseError .noBlock s ∨ (s.blk.blockValid = true ∧ k = .next t) := by
  rcases requireBlock_eq s k with ⟨-, he⟩ | ⟨hp, he⟩
  · rw [he] at h; cases h; exact .inl rfl
  · exact .inr ⟨hp, he ▸ h⟩

theorem requireIndex_next {i : Nat} {s t : State} {k : Result} (h : requireIndex i s k = .next t) :
    t = raiseError .badIndex s ∨ (i < s.blk.capacity.toNat ∧ k = .next t) := by
  rcases requireIndex_eq i s k with ⟨-, he⟩ | ⟨hp, he⟩
  · rw [he] at h; cases h; exact .inl rfl
  · exact .inr ⟨hp, he ▸ h⟩

theorem next_inj {s t : State} (h : (Host.Outcome.next s : Result) = .next t) : t = s := by cases h; rfl

/-! ## One lemma per command -/

theorem execNop_next {s t : State} (h : execNop s = .next t) : t = respond 0 s := next_inj h

theorem execSetDelayMs_next {ms : Word} {s t : State} (h : execSetDelayMs ms s = .next t) :
    t = respond 0 { s with blk := { s.blk with delayMs := ms } } := next_inj h

theorem execSetWetGain_next {g : Word} {s t : State} (h : execSetWetGain g s = .next t) :
    t = respond 0 { s with blk := { s.blk with wetGain := g } } := next_inj h

theorem execReadReg_next {n : Word} {s t : State} (h : execReadReg n s = .next t) :
    (9 < n.toNat ∧ t = raiseError .illegalCmd s) ∨
      ∃ v, n.toNat ≤ 9 ∧ s.register n.toNat = some v ∧ t = respond v s := by
  have hr := State.register_isSome s n.toNat
  unfold execReadReg indexOperand at h
  split at h
  · rename_i v hv
    exact .inr ⟨v, hr.mp (by simp [hv]), hv, next_inj h⟩
  · rename_i hv
    exact .inl ⟨by simp [hv] at hr; exact hr, next_inj h⟩

theorem execRelease_next {s t : State} (h : execRelease s = .next t) :
    RejectedWith [.portDenied] s t ∨ (s.env.port = .a ∧ t = respond 0 { s with blk := s.blk.endSession }) := by
  rcases requirePortA_next h with h | ⟨hp, h⟩
  · exact .inl ⟨_, by simp, h⟩
  · exact .inr ⟨hp, next_inj h⟩

theorem execClearErr_next {s t : State} (h : execClearErr s = .next t) :
    RejectedWith [.portDenied] s t ∨ (s.env.port = .a ∧ t = respond 0 { s with blk := s.blk.clearErrors }) := by
  rcases requirePortA_next h with h | ⟨hp, h⟩
  · exact .inl ⟨_, by simp, h⟩
  · exact .inr ⟨hp, next_inj h⟩

theorem execPrepare_next {n : Field8} {cap rate : Word} {s t : State} (h : execPrepare n cap rate s = .next t) :
    RejectedWith [.portDenied, .badConfig] s t ∨
      (s.env.port = .a ∧ configOutOfRange s.cfg n cap rate = false ∧
        t = respond 0 { s with blk := s.blk.startSession (channelCountOperand n) cap rate }) := by
  rcases requirePortA_next h with h | ⟨hp, h⟩
  · exact .inl ⟨_, by simp, h⟩
  · split at h
    · exact .inl ⟨.badConfig, by simp, next_inj h⟩
    · rename_i hc
      exact .inr ⟨hp, Bool.eq_false_of_not_eq_true hc, next_inj h⟩

theorem execStoreRead_next {ch : Field8} {i : Word} {s t : State} (h : execStoreRead ch i s = .next t) :
    RejectedWith [.portDenied, .notPrepared, .badChannel, .badIndex] s t ∨
      (s.env.port = .a ∧ ∃ v, s.blk.readCell ch.toNat i.toNat = some v ∧ t = respond v s) := by
  rcases requirePortA_next h with h | ⟨hp, h⟩
  · exact .inl ⟨_, by simp, h⟩
  rcases requireSession_next h with h | ⟨-, h⟩
  · exact .inl ⟨_, by simp, h⟩
  rcases requireChannel_next h with h | ⟨-, h⟩
  · exact .inl ⟨_, by simp, h⟩
  rcases requireIndex_next h with h | ⟨-, h⟩
  · exact .inl ⟨_, by simp, h⟩
  obtain ⟨v, hv, h⟩ := orFault_next h
  exact .inr ⟨hp, v, by simpa [indexOperand] using hv, next_inj h⟩

theorem execStoreWrite_next {ch : Field8} {i v : Word} {s t : State} (h : execStoreWrite ch i v s = .next t) :
    RejectedWith [.portDenied, .notPrepared, .badChannel, .badIndex] s t ∨
      (s.env.port = .a ∧ s.blk.hasCell ch.toNat i.toNat = true ∧
        t = respond 0 { s with blk := { s.blk with rb := s.blk.rb.write (cellKey ch.toNat i.toNat) v } }) := by
  rcases requirePortA_next h with h | ⟨hp, h⟩
  · exact .inl ⟨_, by simp, h⟩
  rcases requireSession_next h with h | ⟨-, h⟩
  · exact .inl ⟨_, by simp, h⟩
  rcases requireChannel_next h with h | ⟨-, h⟩
  · exact .inl ⟨_, by simp, h⟩
  rcases requireIndex_next h with h | ⟨-, h⟩
  · exact .inl ⟨_, by simp, h⟩
  obtain ⟨b, hb, h⟩ := orFault_next h
  obtain ⟨hc, rfl⟩ := Block.writeCell_some hb
  exact .inr ⟨hp, by simpa [indexOperand] using hc, by simpa [indexOperand] using next_inj h⟩

theorem execStoreAdvance_next {ch : Field8} {s t : State} (h : execStoreAdvance ch s = .next t) :
    RejectedWith [.portDenied, .notPrepared, .badChannel] s t ∨
      (s.env.port = .a ∧ s.blk.session = .prepared ∧ ch.toNat < s.blk.channelCount.toNat ∧
        ∃ w, s.blk.cursor ch.toNat = some w ∧
          t = respond w { s with blk := s.blk.setCursor ch.toNat (advanceCursor s.blk.capacity w) }) := by
  rcases requirePortA_next h with h | ⟨hp, h⟩
  · exact .inl ⟨_, by simp, h⟩
  rcases requireSession_next h with h | ⟨hs, h⟩
  · exact .inl ⟨_, by simp, h⟩
  rcases requireChannel_next h with h | ⟨hc, h⟩
  · exact .inl ⟨_, by simp, h⟩
  obtain ⟨w, hw, h⟩ := orFault_next h
  exact .inr ⟨hp, hs, by simpa using hc, w, by simpa using hw, by simpa using next_inj h⟩

theorem execGetCursor_next {ch : Field8} {s t : State} (h : execGetCursor ch s = .next t) :
    RejectedWith [.portDenied, .notPrepared, .badChannel] s t ∨
      (s.env.port = .a ∧ ∃ w, s.blk.cursor ch.toNat = some w ∧ t = respond w s) := by
  rcases requirePortA_next h with h | ⟨hp, h⟩
  · exact .inl ⟨_, by simp, h⟩
  rcases requireSession_next h with h | ⟨-, h⟩
  · exact .inl ⟨_, by simp, h⟩
  rcases requireChannel_next h with h | ⟨-, h⟩
  · exact .inl ⟨_, by simp, h⟩
  obtain ⟨w, hw, h⟩ := orFault_next h
  exact .inr ⟨hp, w, by simpa using hw, next_inj h⟩

theorem execGetReadCursor_next {ch : Field8} {s t : State} (h : execGetReadCursor ch s = .next t) :
    RejectedWith [.portDenied, .notPrepared, .badChannel, .noBlock] s t ∨
      (s.env.port = .a ∧ s.blk.blockValid = true ∧ ∃ w, s.blk.cursor ch.toNat = some w ∧
        t = respond (BitVec.ofInt 32 (readCursor w s.blk.delaySamples s.blk.capacity)) s) := by
  rcases requirePortA_next h with h | ⟨hp, h⟩
  · exact .inl ⟨_, by simp, h⟩
  rcases requireSession_next h with h | ⟨-, h⟩
  · exact .inl ⟨_, by simp, h⟩
  rcases requireChannel_next h with h | ⟨-, h⟩
  · exact .inl ⟨_, by simp, h⟩
  rcases requireBlock_next h with h | ⟨hb, h⟩
  · exact .inl ⟨_, by simp, h⟩
  obtain ⟨w, hw, h⟩ := orFault_next h
  exact .inr ⟨hp, hb, w, by simpa using hw, next_inj h⟩

theorem execBeginBlock_next {s t : State} (h : execBeginBlock s = .next t) :
    RejectedWith [.portDenied, .notPrepared] s t ∨
      (s.env.port = .a ∧ s.blk.session = .prepared ∧
        ((convert s.blk.delayMs s.blk.sampleRate s.blk.capacity = .range ∧
            t = raiseError .delayRange { s with blk := s.blk.clearLatch }) ∨
          (convert s.blk.delayMs s.blk.sampleRate s.blk.capacity = .bypass ∧
            t = respond 0 { s with blk := s.blk.setLatch true 0 }) ∨
          ∃ d, convert s.blk.delayMs s.blk.sampleRate s.blk.capacity = .delay d ∧
            t = respond (BitVec.ofNat 32 d) { s with blk := s.blk.setLatch false (BitVec.ofNat 32 d) })) := by
  rcases requirePortA_next h with h | ⟨hp, h⟩
  · exact .inl ⟨_, by simp, h⟩
  rcases requireSession_next h with h | ⟨hs, h⟩
  · exact .inl ⟨_, by simp, h⟩
  refine .inr ⟨hp, hs, ?_⟩
  split at h
  · exact .inl ⟨‹_›, next_inj h⟩
  · exact .inr (.inl ⟨‹_›, next_inj h⟩)
  · exact .inr (.inr ⟨_, ‹_›, next_inj h⟩)

theorem execProcessSample_next {ch : Field8} {x : Word} {s t : State} (h : execProcessSample ch x s = .next t) :
    RejectedWith [.portDenied, .notPrepared, .badChannel, .noBlock] s t ∨
      (s.env.port = .a ∧ s.blk.session = .prepared ∧ ch.toNat < s.blk.channelCount.toNat ∧
        s.blk.blockValid = true ∧
        ((s.blk.bypass = true ∧ t = respond x s) ∨
          (s.blk.bypass = false ∧ ∃ w tap, s.blk.cursor ch.toNat = some w ∧
            s.blk.readCell ch.toNat (readCursor w s.blk.delaySamples s.blk.capacity) = some tap ∧
            s.blk.hasCell ch.toNat w.toNat = true ∧
            t = respond (mix x tap s.blk.gainLatched)
              { s with blk := { s.blk with
                  rb := s.blk.rb.write (cellKey ch.toNat w.toNat) x
                  wcur := s.blk.wcur.set ch.toNat (advanceCursor s.blk.capacity w) } }))) := by
  rcases requirePortA_next h with h | ⟨hp, h⟩
  · exact .inl ⟨_, by simp, h⟩
  rcases requireSession_next h with h | ⟨hs, h⟩
  · exact .inl ⟨_, by simp, h⟩
  rcases requireChannel_next h with h | ⟨hc, h⟩
  · exact .inl ⟨_, by simp, h⟩
  rcases requireBlock_next h with h | ⟨hb, h⟩
  · exact .inl ⟨_, by simp, h⟩
  refine .inr ⟨hp, hs, by simpa using hc, hb, ?_⟩
  split at h
  · exact .inl ⟨‹_›, next_inj h⟩
  · rename_i hy
    obtain ⟨w, hw, h⟩ := orFault_next h
    obtain ⟨tap, ht, h⟩ := orFault_next h
    obtain ⟨b, hb', h⟩ := orFault_next h
    obtain ⟨hcell, rfl⟩ := Block.writeCell_some hb'
    refine .inr ⟨by simpa using hy, w, tap, by simpa using hw, by simpa using ht, by simpa using hcell, ?_⟩
    simpa [Block.setCursor] using next_inj h

/-! ## All commands at once (60_exceptions.md R222, R223) -/

/-- Two responses that leave the same surroundings are the same. -/
theorem answer_inj {e : Env} {r r' : Response} (h : e.answer r = e.answer r') : r = r' := by
  rcases Port.eq_a_or_c e.port with hp | hp
  · have := congrArg Env.respA h; simpa [Env.answer_respA, hp] using this
  · have := congrArg Env.respC h; simpa [Env.answer_respC, hp] using this

theorem ErrorCode.code_ne_zero (e : ErrorCode) : e.code ≠ 0 := by cases e <;> decide

/-- What any command can do: a rejection that changes the record alone, BEGIN_BLOCK's DELAY_RANGE, or a success that
leaves the error record alone unless the command is CLEAR_ERR. -/
theorem exec_next {i : Instr} {s t : State} (h : exec i s = .next t) :
   (∃ e, e ≠ .delayRange ∧ t = raiseError e s) ∨ (i = .beginBlock ∧ t = raiseError .delayRange { s with blk := s.blk.clearLatch }) ∨
   ∃ v b, t = respond v {s with blk := b} ∧ (i ≠ .clearErr → b.errCode = s.blk.errCode ∧ b.errMulti = s.blk.errMulti) ∧ (i = .clearErr → b.errCode = 0 ∧ b.errMulti = false) := by
  have R : ∀ {es : List ErrorCode}, .delayRange ∉ es → RejectedWith es s t → (∃ e, e ≠ .delayRange ∧ t = raiseError e s) := by
    rintro es hes ⟨e, he, rfl⟩; exact ⟨e, fun hh => hes (hh ▸ he), rfl⟩
  cases i <;> simp only [exec] at h
  case nop => have := execNop_next h; subst this; exact .inr (.inr ⟨0, s.blk, rfl, by simp, by simp⟩)
  case prepare =>
    rcases execPrepare_next h with h | ⟨-, -, rfl⟩
    · exact .inl (R (by decide) h)
    · exact .inr (.inr ⟨_, _, rfl, by simp, by simp⟩)
  case release =>
    rcases execRelease_next h with h | ⟨-, rfl⟩
    · exact .inl (R (by decide) h)
    · exact .inr (.inr ⟨_, _, rfl, by simp, by simp⟩)
  case setDelayMs => have := execSetDelayMs_next h; subst this; exact .inr (.inr ⟨_, _, rfl, by simp, by simp⟩)
  case setWetGain => have := execSetWetGain_next h; subst this; exact .inr (.inr ⟨_, _, rfl, by simp, by simp⟩)
  case beginBlock =>
    rcases execBeginBlock_next h with h | ⟨-, -, ⟨-, rfl⟩ | ⟨-, rfl⟩ | ⟨d, -, rfl⟩⟩
    · exact .inl (R (by decide) h)
    · exact .inr (.inl ⟨rfl, rfl⟩)
    · exact .inr (.inr ⟨_, _, rfl, by simp, by simp⟩)
    · exact .inr (.inr ⟨_, _, rfl, by simp, by simp⟩)
  case processSample =>
    rcases execProcessSample_next h with h | ⟨-, -, -, -, ⟨-, rfl⟩ | ⟨-, w, tap, -, -, -, rfl⟩⟩
    · exact .inl (R (by decide) h)
    · exact .inr (.inr ⟨_, s.blk, rfl, by simp, by simp⟩)
    · exact .inr (.inr ⟨_, _, rfl, by simp, by simp⟩)
  case storeRead =>
    rcases execStoreRead_next h with h | ⟨-, v, -, rfl⟩
    · exact .inl (R (by decide) h)
    · exact .inr (.inr ⟨_, s.blk, rfl, by simp, by simp⟩)
  case storeWrite =>
    rcases execStoreWrite_next h with h | ⟨-, -, rfl⟩
    · exact .inl (R (by decide) h)
    · exact .inr (.inr ⟨_, _, rfl, by simp, by simp⟩)
  case storeAdvance =>
    rcases execStoreAdvance_next h with h | ⟨-, -, -, w, -, rfl⟩
    · exact .inl (R (by decide) h)
    · exact .inr (.inr ⟨_, _, rfl, by simp, by simp⟩)
  case getCursor =>
    rcases execGetCursor_next h with h | ⟨-, w, -, rfl⟩
    · exact .inl (R (by decide) h)
    · exact .inr (.inr ⟨_, s.blk, rfl, by simp, by simp⟩)
  case getReadCursor =>
    rcases execGetReadCursor_next h with h | ⟨-, -, w, -, rfl⟩
    · exact .inl (R (by decide) h)
    · exact .inr (.inr ⟨_, s.blk, rfl, by simp, by simp⟩)
  case readReg =>
    rcases execReadReg_next h with ⟨-, rfl⟩ | ⟨v, -, -, rfl⟩
    · exact .inl ⟨_, by simp, rfl⟩
    · exact .inr (.inr ⟨_, s.blk, rfl, by simp, by simp⟩)
  case clearErr =>
    rcases execClearErr_next h with h | ⟨-, rfl⟩
    · exact .inl (R (by decide) h)
    · exact .inr (.inr ⟨_, _, rfl, by simp, by simp⟩)

end Sys2Proof.Machine
end

