-- ==== Sys2Proof/Laws/Float.lean ====
section
/-! SUPPORT. The integer arithmetic of Machine/Float.lean against the reading of spec/00_scope.md R9: `f32Scaled` is
`val` in units of 2^-149, and `roundHalfEven` is the nearest whole number, a tie to the even one. -/

namespace Sys2Proof.Machine

theorem f32Exp_lt (b : Word) : f32Exp b < 256 := (b.extractLsb' 23 8).isLt

theorem f32Frac_lt (b : Word) : f32Frac b < 2 ^ 23 := (b.extractLsb' 0 23).isLt

/-- The magnitude of `val b` in units of 2^-149. -/
theorem f32Mag_eq (b : Word) :
    (f32Mag b : ℚ) * 2 ^ (-149 : ℤ) =
      if f32Exp b = 0 then (f32Frac b : ℚ) * 2 ^ (-149 : ℤ)
      else ((2 ^ 23 + f32Frac b : Nat) : ℚ) * 2 ^ ((f32Exp b : ℤ) - 150) := by
  unfold f32Mag
  split
  · rfl
  · have h2 : ((f32Exp b : ℤ) - 150) = ((f32Exp b - 1 : Nat) : ℤ) + (-149) := by omega
    rw [h2, zpow_add₀ (by norm_num), zpow_natCast]
    push_cast
    ring

/-- `f32Scaled b` is `val b` in units of 2^-149 (00_scope.md R9). -/
theorem val_eq_scaled (b : Word) : val b = (f32Scaled b : ℚ) * 2 ^ (-149 : ℤ) := by
  have h := f32Mag_eq b
  unfold val f32Scaled
  rw [← h]
  split <;> push_cast <;> ring

/-- The quotient is within half a unit, and a tie goes to the even quotient (00_scope.md R10 (1)). -/
theorem roundHalfEven_nearest (n : Nat) {d : Nat} (hd : 0 < d) :
    2 * (d * roundHalfEven n d) ≤ 2 * n + d ∧ 2 * n ≤ 2 * (d * roundHalfEven n d) + d ∧
      (2 * (d * roundHalfEven n d) = 2 * n + d ∨ 2 * n = 2 * (d * roundHalfEven n d) + d →
        roundHalfEven n d % 2 = 0) := by
  have hn := Nat.div_add_mod n d
  have hr := Nat.mod_lt n hd
  simp only [roundHalfEven]
  generalize n / d = q at *
  generalize n % d = r at *
  have hq : d * (q + 1) = d * q + d := by ring
  split
  · rename_i h
    refine ⟨by omega, by omega, fun ht => ?_⟩
    rcases h with h | h
    · omega
    · exact h.2
  · rename_i h
    rw [hq]
    refine ⟨by omega, by omega, fun ht => ?_⟩
    have : 2 * r = d := by omega
    omega

end Sys2Proof.Machine
end

