-- ==== Sys2Proof/Laws/PerInstr.lean ====
section
/-! SUPPORT. A statement for all commands, one lemma per constructor: the header word an encoder writes holds the
opcode of spec/30_encoding.md R93 in `OP`, zero in `RSV`, and zero in `CH` where R96 (b) says it must be. -/

namespace Sys2Proof.Laws

/-- The header of the encoded command (R91, R93, R96). -/
def EncodedHeader.Statement (i : Instr) : Prop :=
  opField (encode i).w0 = opcodeOf i ∧ rsvField (encode i).w0 = 0 ∧
    (chMustBeZero (opcodeOf i) = true → chField (encode i).w0 = 0)

/-- The fields of a header word are those it was built from. -/
theorem opField_header (op ch : Field8) : opField (header op ch) = op := by
  unfold opField header; ext i hi; simp; grind

theorem rsvField_header (op ch : Field8) : rsvField (header op ch) = 0 := by
  unfold rsvField header; ext i hi; simp; grind

theorem chField_header (op ch : Field8) : chField (header op ch) = ch := by
  unfold chField header; ext i hi; simp; grind

/-- A header built from an opcode meets the statement if its channel is 0 where it must be. -/
theorem EncodedHeader.of_header {i : Instr} {op ch : Field8} (h : (encode i).w0 = header op ch)
    (hop : opcodeOf i = op) (hch : chMustBeZero op = true → ch = 0) : EncodedHeader.Statement i := by
  subst hop
  exact ⟨h ▸ opField_header _ _, h ▸ rsvField_header _ _, fun hc => h ▸ (chField_header _ _).trans (hch hc)⟩

theorem EncodedHeader.nop : EncodedHeader.Statement .nop :=
  of_header (op := 0x00) (ch := 0) rfl rfl fun _ => rfl

theorem EncodedHeader.prepare (n : Field8) (cap rate : Word) : EncodedHeader.Statement (.prepare n cap rate) :=
  of_header (op := 0x01) (ch := n) rfl rfl fun h => Bool.noConfusion h

theorem EncodedHeader.release : EncodedHeader.Statement .release :=
  of_header (op := 0x02) (ch := 0) rfl rfl fun _ => rfl

theorem EncodedHeader.setDelayMs (ms : Word) : EncodedHeader.Statement (.setDelayMs ms) :=
  of_header (op := 0x03) (ch := 0) rfl rfl fun _ => rfl

theorem EncodedHeader.setWetGain (g : Word) : EncodedHeader.Statement (.setWetGain g) :=
  of_header (op := 0x04) (ch := 0) rfl rfl fun _ => rfl

theorem EncodedHeader.beginBlock : EncodedHeader.Statement .beginBlock :=
  of_header (op := 0x05) (ch := 0) rfl rfl fun _ => rfl

theorem EncodedHeader.processSample (ch : Field8) (x : Word) : EncodedHeader.Statement (.processSample ch x) :=
  of_header (op := 0x06) (ch := ch) rfl rfl fun h => Bool.noConfusion h

theorem EncodedHeader.storeRead (ch : Field8) (i : Word) : EncodedHeader.Statement (.storeRead ch i) :=
  of_header (op := 0x07) (ch := ch) rfl rfl fun h => Bool.noConfusion h

theorem EncodedHeader.storeWrite (ch : Field8) (i v : Word) : EncodedHeader.Statement (.storeWrite ch i v) :=
  of_header (op := 0x08) (ch := ch) rfl rfl fun h => Bool.noConfusion h

theorem EncodedHeader.storeAdvance (ch : Field8) : EncodedHeader.Statement (.storeAdvance ch) :=
  of_header (op := 0x09) (ch := ch) rfl rfl fun h => Bool.noConfusion h

theorem EncodedHeader.getCursor (ch : Field8) : EncodedHeader.Statement (.getCursor ch) :=
  of_header (op := 0x0A) (ch := ch) rfl rfl fun h => Bool.noConfusion h

theorem EncodedHeader.getReadCursor (ch : Field8) : EncodedHeader.Statement (.getReadCursor ch) :=
  of_header (op := 0x0B) (ch := ch) rfl rfl fun h => Bool.noConfusion h

theorem EncodedHeader.readReg (n : Word) : EncodedHeader.Statement (.readReg n) :=
  of_header (op := 0x0C) (ch := 0) rfl rfl fun _ => rfl

theorem EncodedHeader.clearErr : EncodedHeader.Statement .clearErr :=
  of_header (op := 0x0D) (ch := 0) rfl rfl fun _ => rfl

end Sys2Proof.Laws
end

