-- ==== Sys2Proof/Tests/Slice0.lean ====
section
/-! SUPPORT. Tests: the well-formedness smoke test, one written-out word per command (spec/30_encoding.md R93), one or
two single-step tests per command with the results of spec/95_test_vectors.md, and for every obligation with hypotheses
a witness that meets them. -/

namespace Sys2Proof.Tests

open Sys2Proof.Machine

/-! ## Helpers -/

/-- The next state of a result, if there is one. -/
def nextOf : Result → Option State
  | .next t => some t
  | .fault _ => none
  | .refused _ => none

/-- Channel 0 at its last cell and channel 1 at its first, the latched delay equal to the capacity. -/
def demoBlock : Block where
  session := .prepared
  sampleRate := 1000
  channelCount := 2
  capacity := 4
  rb := [(3, 0x40000000), (2 ^ 32 + 1, 0x3F800000)]
  wcur := [3, 0]
  delayMs := 0x40800000
  wetGain := 0x3F800000
  blockValid := true
  bypass := false
  delaySamples := 4
  gainLatched := 0x3F800000
  errCode := 0
  errMulti := false

/-- A block on port `p` with nothing waiting. -/
def on (p : Port) (b : Block) : State := ⟨b, Config.vectorParams, { Env.quiet with port := p }⟩

def demo : State := on .a demoBlock

/-- The same session with the latch in bypass. -/
def bypassed : State := on .a { demoBlock with bypass := true, delaySamples := 0 }

/-- The same session with no latch, and a delay of 5 ms that the capacity does not hold. -/
def unlatched : State :=
  on .a { demoBlock with blockValid := false, delaySamples := 0, gainLatched := 0, delayMs := 0x40A00000 }

/-- A silent one-channel session: +0 cells, delay 2, gain 0.5. -/
def silent : State :=
  on .a { demoBlock with channelCount := 1, rb := [], wcur := [0], delaySamples := 2, gainLatched := 0x3F000000 }

/-- What a command answers and leaves, as data a test can compare. -/
def answerOf (i : Instr) (s : State) : Option (List Response) := (nextOf (exec i s)).map (·.env.respA)

def blockOf (i : Instr) (s : State) : Option Block := (nextOf (exec i s)).map (·.blk)

theorem demo_inv : demo.Inv := by decide +kernel
theorem bypassed_inv : bypassed.Inv := by decide +kernel
theorem unlatched_inv : unlatched.Inv := by decide +kernel
theorem silent_inv : silent.Inv := by decide +kernel
theorem reset_memory_wf : Memory.wf State.reset.blk.rb := by decide

/-! ## Well-formedness smoke test: the one check, with a term it refuses and one at the boundary it admits -/

theorem test_wellFormed_refuses_register_10 : ¬ (Instr.readReg 10).WellFormed := by decide
theorem test_wellFormed_admits_register_9 : (Instr.readReg 9).WellFormed := by decide

/-! ## Decoding: words written out from R93 (and the illegal ones of R95, R96) -/

theorem test_decode_nop : decode ⟨0x00000000, 0x12345678, 0xFFFFFFFF⟩ = .legal .nop := by decide
theorem test_decode_prepare : decode ⟨0x01FF0000, 1, 0x000003E8⟩ = .legal (.prepare 255 1 1000) := by decide
theorem test_decode_release : decode ⟨0x02000000, 0, 0⟩ = .legal .release := by decide
theorem test_decode_setDelayMs : decode ⟨0x03000000, 0xDEADBEEF, 0x40A00000⟩ = .legal (.setDelayMs 0x40A00000) := by
  decide
theorem test_decode_setWetGain : decode ⟨0x04000000, 0, 0x3F000000⟩ = .legal (.setWetGain 0x3F000000) := by decide
theorem test_decode_beginBlock : decode ⟨0x05000000, 0, 0⟩ = .legal .beginBlock := by decide
theorem test_decode_processSample :
    decode ⟨0x06010000, 0, 0x3F000000⟩ = .legal (.processSample 1 0x3F000000) := by decide
theorem test_decode_storeRead : decode ⟨0x07020000, 3, 9⟩ = .legal (.storeRead 2 3) := by decide
theorem test_decode_storeWrite :
    decode ⟨0x08800000, 0xFFFFFFFF, 0x7FA00001⟩ = .legal (.storeWrite 128 0xFFFFFFFF 0x7FA00001) := by decide
theorem test_decode_storeAdvance : decode ⟨0x09030000, 0, 0⟩ = .legal (.storeAdvance 3) := by decide
theorem test_decode_getCursor : decode ⟨0x0A010000, 0, 0⟩ = .legal (.getCursor 1) := by decide
theorem test_decode_getReadCursor : decode ⟨0x0BFF0000, 0, 0⟩ = .legal (.getReadCursor 255) := by decide
theorem test_decode_readReg : decode ⟨0x0C000000, 9, 0⟩ = .legal (.readReg 9) := by decide
theorem test_decode_clearErr : decode ⟨0x0D000000, 0, 0⟩ = .legal .clearErr := by decide
theorem test_decode_reserved : decode ⟨0x0E000000, 0, 0⟩ = .illegal .reservedOpcode := by decide
theorem test_decode_rsv : decode ⟨0x05000001, 0, 0⟩ = .illegal .reservedField := by decide
theorem test_decode_channel : decode ⟨0x00010000, 0, 0⟩ = .illegal .channelField := by decide
theorem test_decode_register : decode ⟨0x0C000000, 10, 0⟩ = .illegal .registerNumber := by decide
theorem test_decodeTableWord :
    decodeTableWord 96 0x3F000000000000000600000A = none ∧
      decodeTableWord 96 0x3F0000000000000006010000 = some (.processSample 1 0x3F000000) ∧
      decodeTableWord 32 0x0D000000 = some .clearErr := by decide

/-! ## Single steps (95_test_vectors.md, the row in each name's comment) -/

/-- S1 -/
theorem test_prepare_zeroes :
    (blockOf (.prepare 1 8 1000) demo).map (fun b => (b.rb, b.wcur, b.blockValid, b.delayMs)) =
      some ([], [0], false, 0x40800000) := by decide
/-- S3 -/
theorem test_prepare_bad_capacity : answerOf (.prepare 1 0 1000) demo = some [⟨4, 0⟩] := by decide
/-- K6 -/
theorem test_release : (blockOf .release demo).map (fun b => (b.session, b.capacity, b.wetGain)) =
    some (.unprepared, 0, 0x3F800000) := by decide
/-- K8 -/
theorem test_release_on_c : (nextOf (exec .release (on .c demoBlock))).map (fun t => (t.env.respC, t.blk.errCode)) =
    some ([⟨2, 0⟩], 2) := by decide
/-- S14 -/
theorem test_storeRead : answerOf (.storeRead 1 1) demo = some [⟨0, 0x3F800000⟩] := by decide
/-- S11: not reduced modulo the capacity -/
theorem test_storeRead_bad_index : answerOf (.storeRead 0 0xFFFFFFFF) demo = some [⟨7, 0⟩] := by decide
/-- S13: verbatim; and a zero leaves no entry -/
theorem test_storeWrite : (blockOf (.storeWrite 0 0 0x7FA00001) demo).map (·.rb) =
    some [(0, 0x7FA00001), (3, 0x40000000), (2 ^ 32 + 1, 0x3F800000)] := by decide
theorem test_storeWrite_zero : (blockOf (.storeWrite 1 1 0) demo).map (·.rb) = some [(3, 0x40000000)] := by decide
/-- S17 -/
theorem test_storeAdvance_wraps : answerOf (.storeAdvance 0) demo = some [⟨0, 3⟩] ∧
    (blockOf (.storeAdvance 0) demo).map (·.wcur) = some [0, 0] := by decide
/-- X4, X5: BAD_CHANNEL before the later checks -/
theorem test_storeAdvance_bad_channel : answerOf (.storeAdvance 9) demo = some [⟨5, 0⟩] := by decide
/-- S19 -/
theorem test_getCursor : answerOf (.getCursor 0) demo = some [⟨0, 3⟩] := by decide
/-- 2.4: `w = 3, D = 4, CAP = 4` gives 3 -/
theorem test_getReadCursor : answerOf (.getReadCursor 0) demo = some [⟨0, 3⟩] := by decide
/-- E12 -/
theorem test_getReadCursor_no_block : answerOf (.getReadCursor 0) unlatched = some [⟨6, 0⟩] := by decide
/-- B1 on the capacity 4: 4 ms at 1000 Hz is 4 samples -/
theorem test_beginBlock : (blockOf .beginBlock demo).map (fun b => (b.blockValid, b.bypass, b.delaySamples)) =
    some (true, false, 4) := by decide +kernel
/-- B3 -/
theorem test_beginBlock_range : answerOf .beginBlock unlatched = some [⟨8, 0⟩] := by decide +kernel
/-- E3: with `D = CAP` the tap is read before the store -/
theorem test_processSample : answerOf (.processSample 0 0x40C00000) demo = some [⟨0, 0x41000000⟩] ∧
    (blockOf (.processSample 0 0x40C00000) demo).map (fun b => (b.readCell 0 3, b.wcur)) =
      some (some 0x40C00000, [0, 0]) := by decide +kernel
/-- E5 -/
theorem test_processSample_bypass : answerOf (.processSample 1 0x7FA00001) bypassed = some [⟨0, 0x7FA00001⟩] := by
  decide
/-- Q2 -/
theorem test_setDelayMs : (blockOf (.setDelayMs 0x7FC00001) demo).map (fun b => (b.delayMs, b.delaySamples)) =
    some (0x7FC00001, 4) := by decide
/-- Q6: the latch keeps its gain -/
theorem test_setWetGain : (blockOf (.setWetGain 0x3F000000) demo).map (fun b => (b.wetGain, b.gainLatched)) =
    some (0x3F000000, 0x3F800000) := by decide
/-- K3 -/
theorem test_readReg_status : answerOf (.readReg 0) demo = some [⟨0, 0x00000060⟩] := by decide
/-- V6 -/
theorem test_readReg_cap_max : answerOf (.readReg 9) demo = some [⟨0, 0xFFFFFFFF⟩] := by decide
/-- K9 -/
theorem test_clearErr : (blockOf .clearErr (on .a { demoBlock with errCode := 7, errMulti := true })).map
    (fun b => (b.errCode, b.errMulti)) = some (0, false) := by decide
/-- K10 -/
theorem test_clearErr_on_c : (blockOf .clearErr (on .c { demoBlock with errCode := 7 })).map
    (fun b => (b.errCode, b.errMulti)) = some (7, true) := by decide
/-- K1 -/
theorem test_nop : (nextOf (exec .nop (on .c demoBlock))).map (fun t => (t.blk, t.env.respC)) =
    some (demoBlock, [⟨0, 0⟩]) := by decide

/-- 2.5: 0.3 × 0.7; overflow; a tie in the subnormals; cancellation -/
theorem test_mix :
    mix 0 0x3E99999A 0x3F333333 = 0x3E570A3E ∧ mix 0x7F7FFFFF 0x7F7FFFFF 0x3F800000 = 0x7F800000 ∧
      mix 0 0x00000003 0x3F000000 = 0x00000002 ∧ mix 0xFF7FFFFF 0x7F7FFFFF 0x3F800000 = 0 := by decide +kernel
/-- 2.3: 0.7 ms at 10 kHz truncates to 6 -/
theorem test_convert : convert 0x3F333333 10000 8 = .delay 6 := by decide +kernel

/-- The example of 30_encoding.md R101; a pseudo-instruction of R102 on port C -/
theorem test_assembleLine :
    assembleLine "PROCESS_SAMPLE 1, 0.5 ; half" = some [(.a, ⟨0x06010000, 0, 0x3F000000⟩)] ∧
      assembleLine "C: SET_PARAMS 5.0, 0x3F000000" =
        some [(.c, ⟨0x03000000, 0, 0x40A00000⟩), (.c, ⟨0x04000000, 0, 0x3F000000⟩)] := by decide +kernel
/-- R102, CALL_BLOCK with an empty second list -/
theorem test_assemble_call_block : assembleLine "CALL_BLOCK [1.0, 2.0], []" =
    some [(.a, ⟨0x05000000, 0, 0⟩), (.a, ⟨0x06000000, 0, 0x3F800000⟩), (.a, ⟨0x06000000, 0, 0x40000000⟩)] := by
  decide +kernel

/-- From reset, a table word placed by `withFetchWord` is the first command executed. -/
theorem test_first_step_after_reset :
    (nextOf (step (State.reset.withFetchWord 32 0x0A000000))).map (fun t => (t.env.respA, t.blk.errCode)) =
      some ([⟨3, 0⟩], 3) := by decide

/-! ## Witnesses: the hypotheses of the obligations, met together -/

/-- The state with commands waiting on both ports. -/
def waiting (turns : List Turn) : State :=
  { demo with env := { demo.env with
      pendA := [⟨0x0E000000, 0, 0⟩, ⟨0x0A010000, 0, 0⟩], pendC := [⟨0x00000000, 0, 0⟩], turns := turns } }

theorem waiting_inv : (waiting []).Inv := by decide +kernel

theorem witness_DecodeInvertsEncode : (Instr.readReg 9).WellFormed := by decide

theorem witness_EncodeRestoresUsedWords :
    decode ⟨0x08FF0000, 0xFFFFFFFF, 1⟩ = .legal (.storeWrite 255 0xFFFFFFFF 1) ∧
      usesW1 (.storeWrite 255 0xFFFFFFFF 1) = true ∧ usesW2 (.storeWrite 255 0xFFFFFFFF 1) = true := by decide

theorem witness_ExactlyOneTableRowHitsALegalHeader :
    decode ⟨0x0BFF0000, 0, 0⟩ = .legal (.getReadCursor 255) ∧
      decode ⟨0x0C000000, 10, 0⟩ = .illegal .registerNumber ∧
      decode ⟨0x0E000000, 0, 0⟩ = .illegal .reservedOpcode := by decide

theorem witness_IgnoredWordsChangeNothing :
    decode ⟨0x09FF0000, 5, 6⟩ = .legal (.storeAdvance 255) ∧ usesW1 (.storeAdvance 255) = false ∧
      usesW2 (.storeAdvance 255) = false ∧ decode ⟨0x0C000000, 10, 0⟩ = .illegal .registerNumber := by decide

/-- Two states whose selected commands differ in an ignored word alone. -/
theorem witness_IgnoredWordsChangeNothing_step :
    select (demo.withCommand ⟨0x06000000, 1, 5⟩) = .command ⟨0x06000000, 1, 5⟩ demo ∧
      select (demo.withCommand ⟨0x06000000, 2, 5⟩) = .command ⟨0x06000000, 2, 5⟩ demo ∧
      decode ⟨0x06000000, 1, 5⟩ = .legal (.processSample 0 5) ∧ usesW1 (.processSample 0 5) = false ∧
      decode ⟨0x0E000000, 1, 5⟩ = .illegal .reservedOpcode := by decide

theorem witness_StepRunsTheDecodedCommand :
    (waiting [.serve .c]).env.turns = [.serve .c] ∧
      (waiting [.serve .c]).env.pendC = [⟨0, 0, 0⟩] ∧ decode ⟨0, 0, 0⟩ = .legal .nop ∧
      select (waiting [.serve .c]) = .command ⟨0, 0, 0⟩
        { demo with env := { demo.env with pendA := (waiting []).env.pendA, port := .c } } := by decide

theorem witness_StepRunsTheDecodedCommand_portA :
    (waiting [.serve .a]).env.turns = [.serve .a] ∧
      (waiting [.serve .a]).env.pendA = [⟨0x0E000000, 0, 0⟩, ⟨0x0A010000, 0, 0⟩] := by decide

theorem witness_StepRunsTheDecodedCommand_free :
    (waiting []).env.turns = [] ∧ (waiting []).env.pendA ≠ [] ∧ (waiting []).env.pendC ≠ [] ∧
      (demo.withCommand ⟨0, 0, 0⟩).env.pendA = [⟨0, 0, 0⟩] ∧
      (demo.withCommand ⟨0, 0, 0⟩).env.pendC = [] ∧ (demo.issue .c ⟨0, 0, 0⟩).env.turns = [] ∧
      (demo.issue .c ⟨0, 0, 0⟩).env.pendC = [⟨0, 0, 0⟩] ∧ (demo.issue .c ⟨0, 0, 0⟩).env.pendA = [] ∧
      (demo.issue .a ⟨0, 0, 0⟩).env.turns = [] ∧ (demo.issue .a ⟨0, 0, 0⟩).env.pendA = [⟨0, 0, 0⟩] ∧
      (demo.issue .a ⟨0, 0, 0⟩).env.pendC = [] := by decide

/-- One word for each clause: the last opcode, the lowest bit of `RSV`, the lowest bit of `CH`, register 10. -/
theorem witness_IllegalWordsAreRejected :
    select (waiting [.serve .a]) = .command ⟨0x0E000000, 0, 0⟩
        { demo with env := { demo.env with
            pendA := [⟨0x0A010000, 0, 0⟩], pendC := [⟨0, 0, 0⟩], port := .a } } ∧
      0x0E ≤ ((0xFF000000 : Word).extractLsb' 24 8).toNat ∧ (0x05000001 : Word).extractLsb' 0 16 ≠ 0 ∧
      ((0x0D010000 : Word).extractLsb' 24 8).toNat = 0x0D ∧ (0x0D010000 : Word).extractLsb' 16 8 ≠ 0 ∧
      9 < (10 : Word).toNat := by decide

theorem witness_ResponsesGoToTheIssuingPort : demo.env.port = .a ∧ (on .c demoBlock).env.port = .c := by decide

theorem witness_PowerOnResetRestoresTheTable : (waiting [.powerOn]).env.turns = .powerOn :: [] := by decide

theorem witness_RestChangesNothing : demo.env.turns = [] ∧ demo.atRest := by decide

/-- A step that executes a command and one that executes none. -/
theorem witness_EachStepAnswersAtMostOneCommand :
    ((∀ ts, (waiting [.serve .a]).env.turns ≠ .powerOn :: ts) ∧
      (nextOf (step (waiting [.serve .a]))).isSome = true) ∧
    ((∀ ts, demo.env.turns ≠ .powerOn :: ts) ∧ (nextOf (step demo)).isSome = true) :=
  ⟨⟨fun _ h => by simp [waiting] at h, by decide⟩, fun _ h => by simp [demo, on, Env.quiet] at h, by decide⟩

theorem witness_EveryWaitingCommandIsAnswered :
    (waiting []).Inv ∧ (waiting []).env.turns = [] ∧ 0 < (waiting []).env.pendA.length := ⟨waiting_inv, rfl, by decide⟩

/-- Also for NoStepStopsTheMachine and ImplementationParametersNeverChange. -/
theorem witness_EveryStepKeepsTheInvariant :
    (waiting [.serve .a]).Inv ∧ (nextOf (step (waiting [.serve .a]))).isSome = true := ⟨waiting_inv, by decide⟩

/-- NOP meets every exclusion, and has a next state. -/
theorem witness_RegistersHaveOnlyTheirNamedWriters :
    (nextOf (exec (.storeWrite 1 3 5) demo)).isSome = true ∧ (nextOf (exec .beginBlock bypassed)).isSome = true := by
  decide +kernel

theorem witness_OtherCommandsKeepStorageAndCursors :
    (nextOf (exec (.storeAdvance 1) demo)).isSome = true ∧ (nextOf (exec (.storeWrite 1 3 5) demo)).isSome = true := by
  decide

/-- A rejection with DELAY_RANGE, one with another code, and one of illegal words. -/
theorem witness_RejectionChangesOnlyTheErrorRecord :
    select (unlatched.withCommand ⟨0x05000000, 0, 0⟩) = .command ⟨0x05000000, 0, 0⟩ unlatched ∧
      (nextOf (step (unlatched.withCommand ⟨0x05000000, 0, 0⟩))).map (·.env) =
        some (unlatched.env.answer ⟨8, 0⟩) ∧
      (nextOf (step (unlatched.withCommand ⟨0x0B010000, 0, 0⟩))).map (·.env) =
        some (unlatched.env.answer ⟨6, 0⟩) ∧
      (nextOf (step (unlatched.withCommand ⟨0x0E000000, 0, 0⟩))).map (·.env) =
        some (unlatched.env.answer ⟨1, 0⟩) := by
  decide +kernel

/-- Success of CLEAR_ERR and of another command, a first error and a later one. -/
theorem witness_FirstErrorIsKeptUntilCleared :
    select (demo.withCommand ⟨0x0D000000, 0, 0⟩) = .command ⟨0x0D000000, 0, 0⟩ demo ∧
      answerOf .clearErr demo = some [⟨0, 0⟩] ∧ answerOf .nop demo = some [⟨0, 0⟩] ∧
      answerOf (.storeRead 2 0) demo = some [⟨5, 0⟩] ∧ demo.blk.errCode = 0 ∧
      answerOf (.storeRead 2 0) (on .a { demoBlock with errCode := 1 }) = some [⟨5, 0⟩] := by decide

/-- X4: BAD_CHANNEL and NO_BLOCK both apply, and BAD_CHANNEL is the lowest. -/
theorem witness_LowestApplicableErrorRejects :
    select (unlatched.withCommand ⟨0x06020000, 0, 0⟩) = .command ⟨0x06020000, 0, 0⟩ unlatched ∧
      errorAppliesTo .badChannel ⟨0x06020000, 0, 0⟩ unlatched ∧ errorAppliesTo .noBlock ⟨0x06020000, 0, 0⟩ unlatched ∧
      ∀ e, errorAppliesTo e ⟨0x06020000, 0, 0⟩ unlatched → ErrorCode.badChannel.code.toNat ≤ e.code.toNat := by
  have hd : decode ⟨0x06020000, 0, 0⟩ = .legal (.processSample 2 0) := by decide
  refine ⟨rfl, by rw [errorAppliesTo, hd]; exact ⟨2, rfl, by decide⟩,
    by rw [errorAppliesTo, hd]; exact ⟨rfl, rfl⟩, fun e h => ?_⟩
  rw [errorAppliesTo, hd] at h
  cases e <;> simp [errorApplies, Instr.isWellFormed, unlatched, on, demoBlock] at h <;> decide

/-- No error applies to the last channel's STORE_ADVANCE. -/
theorem witness_LowestApplicableErrorRejects_none :
    (demo.withCommand ⟨0x09010000, 0, 0⟩).Inv ∧
      select (demo.withCommand ⟨0x09010000, 0, 0⟩) = .command ⟨0x09010000, 0, 0⟩ demo ∧
      ∀ e, ¬ errorAppliesTo e ⟨0x09010000, 0, 0⟩ demo := by
  have hd : decode ⟨0x09010000, 0, 0⟩ = .legal (.storeAdvance 1) := by decide
  refine ⟨demo_inv, rfl, fun e h => ?_⟩
  rw [errorAppliesTo, hd] at h
  cases e <;>
    simp [errorApplies, Instr.isWellFormed, demo, on, demoBlock, channelTaken, indexTaken, needsBlock, Env.quiet] at h

/-- A command that port C may issue and one that it may not. -/
theorem witness_PortCMayIssueOnlyFourCommands :
    select (demo.issue .c ⟨0x0C000000, 9, 0⟩) = .command ⟨0x0C000000, 9, 0⟩ (on .c demoBlock) ∧
      decode ⟨0x0C000000, 9, 0⟩ = .legal (.readReg 9) ∧
      select (demo.issue .c ⟨0x0D000000, 0, 0⟩) = .command ⟨0x0D000000, 0, 0⟩ (on .c demoBlock) ∧
      decode ⟨0x0D000000, 0, 0⟩ = .legal .clearErr ∧ (on .c demoBlock).env.port = .c := by decide

theorem witness_AnInvalidatedLatchRejectsProcessing :
    demo.env.port = .a ∧ answerOf (.prepare 2 1 1) demo = some [⟨0, 0⟩] ∧
      (blockOf (.prepare 2 1 1) demo).map (·.channelCount) = some 2 ∧
      answerOf .beginBlock unlatched = some [⟨8, 0⟩] ∧ unlatched.blk.channelCount = 2 ∧
      answerOf .release demo = some [⟨0, 0⟩] := by decide +kernel

theorem witness_ReadRegAnswersTheRegister :
    [demo.blk.status, 0, 0, 0, 0, 0, 0, 0, 0, demo.cfg.capMax][9]? = some 0xFFFFFFFF ∧ 9 < (10 : Word).toNat := by decide

/-- Also for ClearErrClearsOnlyTheRecord on port A (port C: `on .c demoBlock` above) and BeginBlockLatchesDelayAndGain's ports. -/
theorem witness_ReleaseEndsTheSession : demo.env.port = .a := rfl

/-- The largest operands R6 allows, and the smallest. -/
theorem witness_PrepareStartsAZeroedSession :
    demo.env.port = .a ∧ (255 : Field8).toNat ≤ demo.cfg.chMax.toNat ∧ 1 ≤ (1 : Field8).toNat ∧
      (0xFFFFFFFF : Word).toNat ≤ demo.cfg.capMax.toNat ∧ 1 ≤ (1 : Word).toNat ∧ (1 : Word) ≠ 0 := by decide

/-- One operand out of range at a time: count 0, capacity 0, rate 0, and a count or capacity one above the bound of a
block with smaller parameters. -/
theorem witness_RejectedPrepareKeepsTheOldSession :
    demo.env.port = .a ∧ (0 : Field8).toNat = 0 ∧ (0 : Word).toNat = 0 ∧
      (⟨demo.blk, ⟨1, 99⟩, demo.env⟩ : State).cfg.chMax.toNat < (3 : Field8).toNat ∧
      (⟨demo.blk, ⟨1, 99⟩, demo.env⟩ : State).cfg.capMax.toNat < (101 : Word).toNat := by decide

/-- The last cell of the last channel. Also for StoreWriteWritesOnlyItsCell, StoreAdvanceMovesOneCursor and
CursorReadsAnswerTheCursors. -/
theorem witness_StoreReadAnswersTheCell :
    demo.Inv ∧ demo.env.port = .a ∧ demo.blk.session = .prepared ∧
      (1 : Field8).toNat < demo.blk.channelCount.toNat ∧ (3 : Word).toNat < demo.blk.capacity.toNat ∧
      demo.blk.blockValid = true := ⟨demo_inv, by decide⟩

/-- Also for ProcessedRunIsADelayLine and ProcessSampleTapsStoresAndAdvances: the delay is the capacity, the cursor
its last value. -/
theorem witness_AdvancesWrapAtTheCapacity :
    demo.Inv ∧ demo.readyFor 0 ∧ demo.blk.cursor (0 : Field8).toNat = some 3 ∧
      ∀ i ∈ [Instr.storeAdvance 0, .processSample 0 5], i = .storeAdvance 0 ∨ ∃ x, i = .processSample 0 x :=
  ⟨demo_inv, by decide, by decide, fun i h => by simp at h; rcases h with rfl | rfl <;> simp⟩

/-- The specials, a count of exactly 1, of exactly the capacity, of one above it, and one under 1. -/
theorem witness_ConversionIsTheExactFloor :
    isNaN 0x7FC00000 = true ∧ isFinite 0x3F800000 = true ∧
      convert 0x3F800000 1000 8 = .delay 1 ∧ convert 0x40A00000 1000 5 = .delay 5 ∧
      convert 0x40A00000 1000 4 = .range ∧ convert 0x3F800000 999 8 = .bypass := by decide +kernel

theorem witness_BeginBlockLatchesDelayAndGain :
    demo.env.port = .a ∧ demo.blk.session = .prepared ∧
      convert demo.blk.delayMs demo.blk.sampleRate demo.blk.capacity = .delay 4 ∧
      convert unlatched.blk.delayMs unlatched.blk.sampleRate unlatched.blk.capacity = .range ∧
      convert 0x00000000 demo.blk.sampleRate demo.blk.capacity = .bypass := by decide +kernel

theorem witness_ReadCursorIsTheModularDifference :
    (0 : Word).toNat < (0xFFFFFFFF : Word).toNat ∧ (0xFFFFFFFF : Word).toNat ≤ (0xFFFFFFFF : Word).toNat := by decide

theorem witness_BypassReturnsTheInput :
    bypassed.env.port = .a ∧ bypassed.blk.session = .prepared ∧
      (1 : Field8).toNat < bypassed.blk.channelCount.toNat ∧ bypassed.blk.blockValid = true ∧
      bypassed.blk.bypass = true := by decide

/-- Also for SilenceStaysSilent. -/
theorem witness_ImpulseComesBackOnceScaledByTheGain :
    silent.Inv ∧ silent.readyFor 0 ∧ isFinite silent.blk.gainLatched = true ∧
      ∀ j : Int, 0 ≤ j → j < silent.blk.capacity.toNat →
        silent.blk.readCell (0 : Field8).toNat j = some 0x00000000 := by
  refine ⟨silent_inv, by decide, by decide, fun j h0 h1 => ?_⟩
  have hc : silent.blk.hasCell (0 : Field8).toNat j = true := by
    simp only [Block.hasCell, decide_eq_true_eq]
    exact ⟨rfl, by decide, h0, h1⟩
  simp only [Block.readCell, hc, if_true]
  rfl

theorem witness_ParametersActOnlyThroughTheLatch :
    (nextOf (exec (.processSample 0 0x40C00000) demo)).isSome = true := by decide +kernel

theorem witness_ACommandTouchesOnlyItsChannel :
    channelTaken (.storeWrite 1 3 5) = some 1 ∧ (nextOf (exec (.storeWrite 1 3 5) demo)).isSome = true ∧
      (0 : Nat) ≠ (1 : Field8).toNat := by decide

theorem witness_CommandsOnDifferentChannelsCommute :
    demo.Inv ∧ demo.env.port = .a ∧ channelTaken (.storeAdvance 0) = some 0 ∧
      channelTaken (.storeWrite 1 3 5) = some 1 ∧ (0 : Field8) ≠ 1 ∧
      (nextOf (exec (.storeAdvance 0) demo)).map (·.env) = some (demo.env.answer ⟨0, 3⟩) ∧
      ((nextOf (exec (.storeAdvance 0) demo)).bind (fun t => nextOf (exec (.storeWrite 1 3 5) t))).map (·.env) =
        some ((demo.env.answer ⟨0, 3⟩).answer ⟨0, 0⟩) :=
  ⟨demo_inv, rfl, rfl, rfl, by decide, by decide, by decide⟩

/-- Two states that differ in channel 0 only are alike to channel 1. -/
theorem witness_AChannelCannotSeeTheOthers :
    demo.Inv ∧ (on .a { demoBlock with wcur := [0, 0], errCode := 5 }).Inv ∧
      State.alikeFor 1 demo (on .a { demoBlock with wcur := [0, 0], errCode := 5 }) ∧
      channelTaken (.storeAdvance 1) = some 1 ∧
      (nextOf (exec (.storeAdvance 1) demo)).map (·.env) = some (demo.env.answer ⟨0, 0⟩) :=
  ⟨demo_inv, by decide +kernel, ⟨rfl, rfl, rfl, rfl, rfl, rfl, rfl, rfl, rfl, rfl, rfl, fun _ => rfl⟩, rfl, by decide⟩

theorem witness_RepeatingASetCommandChangesNothingMore :
    demo.Inv ∧ (nextOf (exec (.storeWrite 1 3 5) demo)).map (·.env) = some (demo.env.answer ⟨0, 0⟩) ∧
      (nextOf (exec (.getCursor 0) demo)).map (·.env) = some (demo.env.answer ⟨0, 3⟩) := ⟨demo_inv, by decide⟩

/-- A subnormal product and an ordinary sum. -/
theorem witness_ProductRoundsToNearestEven :
    isFinite 0x00000003 = true ∧ isFinite 0x3F000000 = true ∧ isFinite (f32Mul 0x00000003 0x3F000000) = true ∧
      isFinite (f32Add 0x00000003 0x3F000000) = true := by decide +kernel

/-- Also for InfinitiesAndNaNsFollowTheRule. -/
theorem witness_OverflowGivesInfinityOfTheExactSign :
    isFinite 0x7F7FFFFF = true ∧ isFinite 0xC0000000 = true ∧ isFinite (f32Mul 0x7F7FFFFF 0xC0000000) = false ∧
      isFinite (f32Add 0x7F7FFFFF 0x7F7FFFFF) = false ∧ isInf 0x7F800000 = true ∧ isInf 0xFF800000 = true ∧
      isNaN 0x7F800001 = true ∧ isZero 0x80000000 = true := by decide +kernel

/-- Also for ZeroTapsPassTheDrySample. -/
theorem witness_MixCanonicalisesEveryNaN :
    isNaN (f32Add 0x7FA00001 (f32Mul 0 0x3F000000)) = true ∧ isNaN (f32Add 0 (f32Mul 0 0)) = false ∧
      isZero (f32Mul 0x00000001 0x3F000000) = true ∧ f32Mul 0x80000000 0x3F000000 = 0x80000000 ∧
      f32Mul 0x00000000 0x3F000000 = 0x00000000 := by decide +kernel

theorem witness_DoublingTheGainDoublesTheProduct :
    isFinite 0x3E99999A = true ∧ isFinite 0x3F000000 = true ∧ isFinite (f32Mul 0x3F000000 0x40000000) = true ∧
      isFinite (f32Mul 0x3E99999A (f32Mul 0x3F000000 0x40000000)) = true ∧
      val 0x00000000 * val 0x3F000000 = 0 := by
  refine ⟨by decide, by decide, by decide +kernel, by decide +kernel, ?_⟩
  rw [show val 0x00000000 = 0 by
    unfold val; rw [if_neg (by decide), if_pos (by decide), show f32Frac 0x00000000 = 0 by decide]; norm_num]
  exact zero_mul _

theorem witness_DoublingTheGainDoublesTheProduct_normal :
    (2 : ℚ) ^ (-126 : ℤ) ≤ |val 0x3F800000 * val 0x3F000000| := by
  have h1 : val 0x3F800000 = 1 := by
    unfold val
    rw [if_neg (by decide), if_neg (by decide), show f32Frac 0x3F800000 = 0 by decide,
      show f32Exp 0x3F800000 = 127 by decide]
    norm_num
  have h2 : val 0x3F000000 = 1 / 2 := by
    unfold val
    rw [if_neg (by decide), if_neg (by decide), show f32Frac 0x3F000000 = 0 by decide,
      show f32Exp 0x3F000000 = 126 by decide]
    norm_num
  rw [h1, h2]; norm_num

/-- 2.5 with its text and value, and a number too large for a finite value. -/
theorem witness_DecimalOperandsRoundToNearestEven :
    [(2 : Fin 10)] ≠ [] ∧ decimalText [2] [5] = "2.5".toList ∧ binary32 "-2.5".toList = some 0xC0200000 ∧
      binary32 "−2.5".toList = some 0xC0200000 ∧ binary32 "-0".toList = some 0x80000000 ∧
      decimalValue [2] [5] = 5 / 2 ∧ (2 : ℚ) ^ 128 - 2 ^ 103 ≤ decimalValue (1 :: List.replicate 39 0) [] := by
  refine ⟨by decide, by decide, by decide +kernel, by decide +kernel, by decide +kernel, ?_, ?_⟩ <;>
    norm_num [decimalValue, Nat.ofDigits, List.replicate]

theorem witness_RatiosRoundToNearestEven :
    0 < 10 ∧ isFinite (f32Pattern false (roundRatio 7 10)) = true := by decide +kernel

end Sys2Proof.Tests
end

section
/-! PROOFS. Steps, ports and parameters: a command taken from its port runs, its response returns there, and no step
writes the parameters. -/

namespace Sys2Proof.Machine

/-! ### Steps, ports and parameters (00_scope.md R5, R6) -/

theorem serve_noCommand_cfg {p : Port} {s t : State} (h : serve p s = .noCommand t) : t.cfg = s.cfg := by
  rcases serve_eq p s with he | ⟨-, _, _, -, he⟩ | ⟨-, _, _, -, he⟩ <;> rw [he] at h <;> cases h
  rfl

/-- A step that takes no command leaves the parameters alone, also at a power-on reset. -/
theorem select_noCommand_cfg {s t : State} (h : select s = .noCommand t) : t.cfg = s.cfg := by
  unfold select at h
  split at h
  · unfold arbitrate at h
    split at h
    · cases h
      rfl
    · exact (serve_noCommand_cfg h).trans rfl
    · exact (serve_noCommand_cfg h).trans rfl
    · exact (serve_noCommand_cfg h).trans rfl
  · exact (serve_noCommand_cfg h).trans rfl
  · cases h
    rfl

theorem exec_cfg {i : Instr} {s t : State} (h : exec i s = .next t) : t.cfg = s.cfg := by
  rcases exec_next h with ⟨_, -, rfl⟩ | ⟨-, rfl⟩ | ⟨_, _, rfl, -, -⟩ <;> rfl

theorem step_cfg {s t : State} (h : step s = .next t) : t.cfg = s.cfg := by
  rcases step_eq s with ⟨u, hu, he⟩ | ⟨c, u, why, hu, -, he⟩ | ⟨c, u, i, hu, -, he⟩
  · rw [he] at h
    rw [next_inj h]
    exact select_noCommand_cfg hu
  · rw [he] at h
    rw [next_inj h, raiseError_cfg]
    exact (select_command_frame hu).2.1
  · rw [he] at h
    exact (exec_cfg h).trans (select_command_frame hu).2.1

/-- Settles O17: no branch of a step writes the parameters, and `Params` holds each less one. -/
theorem implementationParametersNeverChange : Obligations.ImplementationParametersNeverChange := by
  refine ⟨fun _ _ => step_cfg, fun p => ?_, fun n cap hn hn' hcap hcap' => ?_⟩
  · have := p.chMaxLess1.isLt
    have := p.capMaxLess1.isLt
    rw [Params.chMax_toNat, Params.capMax_toNat]
    omega
  · refine ⟨⟨⟨n - 1, by omega⟩, ⟨cap - 1, by omega⟩⟩, ?_⟩
    rw [Params.chMax_toNat, Params.capMax_toNat]
    exact ⟨Nat.sub_add_cancel hn, Nat.sub_add_cancel hcap⟩

theorem step_of_select_command {s t : State} {c : Command} {i : Instr} (hsel : select s = .command c t)
    (hdec : decode c = .legal i) : step s = exec i t := by
  simp [step, fetch, hsel, hdec]

/-! A selection is the serving of one port (20_memory.md R69), which takes the oldest command waiting there. -/
theorem serve_a_cons {s : State} {c : Command} {rest : List Command} (h : s.env.pendA = c :: rest) :
    serve .a s = .command c { s with env := { s.env with pendA := rest, port := .a } } := by
  simp [serve, h]

theorem serve_c_cons {s : State} {c : Command} {rest : List Command} (h : s.env.pendC = c :: rest) :
    serve .c s = .command c { s with env := { s.env with pendC := rest, port := .c } } := by
  simp [serve, h]

theorem select_of_turn {s : State} {p : Port} {ts : List Turn} (h : s.env.turns = .serve p :: ts) :
    select s = serve p { s with env := { s.env with turns := ts } } := by
  simp [select, h]

theorem select_of_no_turn {s : State} (h : s.env.turns = []) : select s = arbitrate s := by
  simp [select, h]

/-- Settles O7: selection reduces to serving one port, whose queue gives the command. -/
theorem stepRunsTheDecodedCommand : Obligations.StepRunsTheDecodedCommand := by
  refine ⟨fun s t c i => step_of_select_command, fun s c rest ts ht hA => ?_, fun s c rest ts ht hC => ?_,
    fun s c rest ht hA hC => ?_, fun s c rest ht hA hC => ?_, fun s a as c cs ht hA hC => ?_⟩
  · rw [select_of_turn ht]
    exact serve_a_cons hA
  · rw [select_of_turn ht]
    exact serve_c_cons hC
  · rw [select_of_no_turn ht, arbitrate, hA, hC]
    exact serve_a_cons hA
  · rw [select_of_no_turn ht, arbitrate, hA, hC]
    exact serve_c_cons hC
  · rw [select_of_no_turn ht, arbitrate, hA, hC]
    cases Config.arb s.env.arbTick with
    | a => exact serve_a_cons hA
    | c => exact serve_c_cons hC

theorem answer_of_port_a {e : Env} (h : e.port = .a) (r : Response) :
    e.answer r = { e with respA := e.respA ++ [r] } := by
  simp [Env.answer, h]

theorem answer_of_port_c {e : Env} (h : e.port = .c) (r : Response) :
    e.answer r = { e with respC := e.respC ++ [r] } := by
  simp [Env.answer, h]

/-- Settles O9, one port per clause. -/
theorem responsesGoToTheIssuingPort : Obligations.ResponsesGoToTheIssuingPort :=
  fun _ r => ⟨fun h => answer_of_port_a h r, fun h => answer_of_port_c h r⟩

end Sys2Proof.Machine
end

section
/-! PROOFS. The rounding of Machine/Float.lean: the pattern it gives is a nearest binary32 value of the exact
result, or an infinity from the overflow boundary on. -/

namespace Sys2Proof.Machine

/-! ### The fields of a pattern built from a sign and bits 30..0 (00_scope.md R9) -/

theorem f32Sign_eq (b : Word) : f32Sign b = decide (2 ^ 31 ≤ b.toNat) :=
  BitVec.msb_eq_decide b

theorem f32Exp_eq (b : Word) : f32Exp b = b.toNat / 2 ^ 23 % 2 ^ 8 := by
  simp [f32Exp, BitVec.extractLsb'_toNat, Nat.shiftRight_eq_div_pow]

theorem f32Frac_eq (b : Word) : f32Frac b = b.toNat % 2 ^ 23 := by
  simp [f32Frac, BitVec.extractLsb'_toNat]

theorem f32Pattern_toNat (s : Bool) {F : Nat} (hF : F < 2 ^ 31) :
    (f32Pattern s F).toNat = (if s then 2 ^ 31 else 0) + F := by
  rw [f32Pattern, BitVec.toNat_ofNat, Nat.mod_eq_of_lt]
  split <;> omega

theorem f32Sign_pattern (s : Bool) {F : Nat} (hF : F < 2 ^ 31) : f32Sign (f32Pattern s F) = s := by
  rw [f32Sign_eq, f32Pattern_toNat s hF]
  cases s <;> simp; omega

theorem f32Exp_pattern (s : Bool) {F : Nat} (hF : F < 2 ^ 31) : f32Exp (f32Pattern s F) = F / 2 ^ 23 := by
  rw [f32Exp_eq, f32Pattern_toNat s hF]
  split <;> omega

theorem f32Frac_pattern (s : Bool) {F : Nat} (hF : F < 2 ^ 31) : f32Frac (f32Pattern s F) = F % 2 ^ 23 := by
  rw [f32Frac_eq, f32Pattern_toNat s hF]
  split <;> omega

theorem getLsbD_zero_pattern (s : Bool) {F : Nat} (hF : F < 2 ^ 31) (heven : F % 2 = 0) :
    (f32Pattern s F).getLsbD 0 = false := by
  rw [← BitVec.testBit_toNat, f32Pattern_toNat s hF, Nat.testBit_zero]
  cases s <;> simp <;> omega

/-- Two patterns with the same three fields are the same pattern. -/
theorem f32_ext {a b : Word} (hs : f32Sign a = f32Sign b) (he : f32Exp a = f32Exp b)
    (hf : f32Frac a = f32Frac b) : a = b := by
  rw [f32Sign_eq, f32Sign_eq, decide_eq_decide] at hs
  rw [f32Exp_eq, f32Exp_eq] at he
  rw [f32Frac_eq, f32Frac_eq] at hf
  apply BitVec.eq_of_toNat_eq
  omega

theorem isFinite_pattern (s : Bool) {F : Nat} (hF : F < 2 ^ 31) :
    isFinite (f32Pattern s F) = true ↔ F < 255 * 2 ^ 23 := by
  simp only [isFinite, f32Exp_pattern s hF, decide_eq_true_eq]
  omega

/-! ### The classes of patterns exclude each other -/

theorem isNaN_eq_false_of_isFinite {b : Word} (h : isFinite b = true) : isNaN b = false := by
  simp_all [isFinite, isNaN]

theorem isInf_eq_false_of_isFinite {b : Word} (h : isFinite b = true) : isInf b = false := by
  simp_all [isFinite, isInf]

theorem isNaN_eq_false_of_isInf {b : Word} (h : isInf b = true) : isNaN b = false := by
  simp_all [isInf, isNaN]

theorem isZero_eq_false_of_isInf {b : Word} (h : isInf b = true) : isZero b = false := by
  simp_all [isInf, isZero]

theorem isInf_f32Inf (s : Bool) : isInf (f32Inf s) = true := by cases s <;> decide

theorem f32Sign_f32Inf (s : Bool) : f32Sign (f32Inf s) = s := f32Sign_pattern s (by norm_num)

theorem isNaN_canonicalNaN : isNaN canonicalNaN = true := by decide

/-- An infinity is determined by its sign (R9). -/
theorem eq_of_isInf {a b : Word} (ha : isInf a = true) (hb : isInf b = true) (hs : f32Sign a = f32Sign b) :
    a = b := by
  obtain ⟨hea, hfa⟩ : f32Exp a = 255 ∧ f32Frac a = 0 := by simpa [isInf] using ha
  obtain ⟨heb, hfb⟩ : f32Exp b = 255 ∧ f32Frac b = 0 := by simpa [isInf] using hb
  exact f32_ext hs (hea.trans heb.symm) (hfa.trans hfb.symm)

/-! ### One rounding for every operation

`f32Mul`, `f32Add` and the assembler's decimals round a non-negative rational `n / d`, counted in units of 2^-149, to
a significand times a power of two. `roundQuotient` is that rounding for any denominator: `roundMag sh n` is
`roundQuotient n (2 ^ sh)` (`roundMag_eq`), and `roundRatio num den` unfolds to
`roundQuotient (num * 2 ^ 149) den`. -/

/-- The exponent of the spacing of binary32 values around `n / d`. -/
def quantumExp (n d : Nat) : Nat := roundShift 0 (n / d)

/-- The significand `n / d` rounds to, in units of `2 ^ quantumExp n d`. -/
def roundedSignificand (n d : Nat) : Nat := roundHalfEven n (d * 2 ^ quantumExp n d)

/-- Bits 30..0 of `n / d` rounded. -/
def roundQuotient (n d : Nat) : Nat := packFields (quantumExp n d) (roundedSignificand n d)

theorem roundMag_eq (sh n : Nat) : roundMag sh n = roundQuotient n (2 ^ sh) := by
  have hexp : quantumExp n (2 ^ sh) = roundShift sh n - sh := by
    simp only [quantumExp, roundShift, Nat.log2_eq_log_two, Nat.log_div_base_pow]
    omega
  have hpow : 2 ^ sh * 2 ^ (roundShift sh n - sh) = 2 ^ roundShift sh n := by
    rw [← pow_add, Nat.add_sub_cancel' (show sh ≤ roundShift sh n from le_max_right _ _)]
  rw [roundMag, roundQuotient, roundedSignificand, hexp, hpow]

/-- `n / d` is below 2^24 quanta. -/
theorem lt_quanta (n : Nat) {d : Nat} (hd : 0 < d) : n < d * 2 ^ quantumExp n d * 2 ^ 24 := by
  have hlog : n / d < 2 ^ (quantumExp n d + 24) := by
    refine (Nat.lt_pow_succ_log_self one_lt_two _).trans_le (Nat.pow_le_pow_right two_pos ?_)
    simp only [quantumExp, roundShift, Nat.log2_eq_log_two]
    omega
  rw [mul_assoc, ← pow_add, mul_comm]
  exact (Nat.div_lt_iff_lt_mul hd).mp hlog

/-- Above the subnormals, `n / d` is at least 2^23 quanta. -/
theorem quanta_le {n d : Nat} (hk : quantumExp n d ≠ 0) : d * 2 ^ quantumExp n d * 2 ^ 23 ≤ n := by
  have hlog : quantumExp n d + 23 = Nat.log 2 (n / d) := by
    simp only [quantumExp, roundShift, Nat.log2_eq_log_two] at hk ⊢
    omega
  have hne : n / d ≠ 0 := by
    intro h0
    rw [h0, Nat.log_zero_right] at hlog
    omega
  rw [mul_assoc, ← pow_add, hlog]
  calc d * 2 ^ Nat.log 2 (n / d) ≤ d * (n / d) := Nat.mul_le_mul_left d (Nat.pow_log_le_self 2 hne)
    _ ≤ n := Nat.mul_div_le n d

theorem quantum_pos (n : Nat) {d : Nat} (hd : 0 < d) : 0 < d * 2 ^ quantumExp n d := by positivity

theorem roundedSignificand_le (n : Nat) {d : Nat} (hd : 0 < d) : roundedSignificand n d ≤ 2 ^ 24 := by
  obtain ⟨hupper, -, -⟩ := roundHalfEven_nearest n (quantum_pos n hd)
  have hn := lt_quanta n hd
  rw [roundedSignificand]
  by_contra hgt
  have := Nat.mul_le_mul_left (d * 2 ^ quantumExp n d) (Nat.lt_of_not_le hgt)
  rw [Nat.succ_eq_add_one, mul_add] at this
  omega

theorem le_roundedSignificand {n d : Nat} (hd : 0 < d) (hk : quantumExp n d ≠ 0) :
    2 ^ 23 ≤ roundedSignificand n d := by
  obtain ⟨-, hlower, -⟩ := roundHalfEven_nearest n (quantum_pos n hd)
  have hn := quanta_le hk
  rw [roundedSignificand]
  by_contra hlt
  have := Nat.mul_le_mul_left (d * 2 ^ quantumExp n d) (Nat.lt_of_not_le hlt)
  rw [Nat.succ_eq_add_one, mul_add] at this
  have := quantum_pos n hd
  omega

/-! ### The pattern of a rounded magnitude -/

theorem roundQuotient_eq (n d : Nat) :
    roundQuotient n d = min (quantumExp n d * 2 ^ 23 + roundedSignificand n d) (255 * 2 ^ 23) := rfl

theorem roundQuotient_lt (n d : Nat) : roundQuotient n d < 2 ^ 31 := by
  rw [roundQuotient_eq]
  omega

/-- A significand of 2^24 carries into the exponent field, and one below 2^23 is subnormal: the fields still mean
significand times quantum. -/
theorem f32Mag_pattern (s : Bool) {k m : Nat} (hle : m ≤ 2 ^ 24) (hge : k ≠ 0 → 2 ^ 23 ≤ m)
    (hfin : k * 2 ^ 23 + m < 255 * 2 ^ 23) : f32Mag (f32Pattern s (k * 2 ^ 23 + m)) = m * 2 ^ k := by
  have hF : k * 2 ^ 23 + m < 2 ^ 31 := by omega
  rw [f32Mag, f32Exp_pattern s hF, f32Frac_pattern s hF]
  rcases lt_trichotomy m (2 ^ 24) with hm | rfl | hm
  · rcases Nat.lt_or_ge m (2 ^ 23) with hsub | hnorm
    · obtain rfl : k = 0 := by omega
      rw [if_pos (by omega), Nat.mod_eq_of_lt (by omega)]
      ring
    · have hexp : (k * 2 ^ 23 + m) / 2 ^ 23 = k + 1 := by omega
      have hfrac : 2 ^ 23 + (k * 2 ^ 23 + m) % 2 ^ 23 = m := by omega
      rw [hexp, hfrac, if_neg (Nat.succ_ne_zero k), Nat.add_sub_cancel]
  · have hexp : (k * 2 ^ 23 + 2 ^ 24) / 2 ^ 23 = k + 2 := by omega
    have hfrac : (k * 2 ^ 23 + 2 ^ 24) % 2 ^ 23 = 0 := by omega
    rw [hexp, hfrac, if_neg (by omega), Nat.add_sub_assoc (by omega)]
    ring
  · omega

/-- Where the rounding overflows: halfway from the largest finite value to 2^128, in units of 2^-149 (R10 (2)). -/
theorem roundQuotient_overflow_iff (n : Nat) {d : Nat} (hd : 0 < d) :
    255 * 2 ^ 23 ≤ roundQuotient n d ↔ (2 ^ 25 - 1) * (d * 2 ^ 252) ≤ n := by
  have hle := roundedSignificand_le n hd
  have hlt := lt_quanta n hd
  have hpack : 255 * 2 ^ 23 ≤ roundQuotient n d ↔
      255 * 2 ^ 23 ≤ quantumExp n d * 2 ^ 23 + roundedSignificand n d := by
    rw [roundQuotient_eq]
    omega
  rw [hpack]
  have hpos : 0 < d * 2 ^ 252 := by positivity
  rcases lt_trichotomy (quantumExp n d) 253 with hk | hk | hk
  · have hquantum : d * 2 ^ quantumExp n d ≤ d * 2 ^ 252 :=
      Nat.mul_le_mul_left d (Nat.pow_le_pow_right two_pos (by omega))
    omega
  · obtain ⟨hupper, hlower, htie⟩ := roundHalfEven_nearest n (quantum_pos n hd)
    have hquantum : d * 2 ^ quantumExp n d = 2 * (d * 2 ^ 252) := by
      rw [hk]
      ring
    rw [← roundedSignificand] at hupper hlower htie
    rw [hquantum] at hupper hlower htie
    constructor
    · intro h
      have hm : roundedSignificand n d = 2 ^ 24 := by omega
      rw [hm] at hupper
      omega
    · intro h
      by_contra hnot
      have hm : roundedSignificand n d ≤ 2 ^ 24 - 1 := by omega
      have := Nat.mul_le_mul_left (2 * (d * 2 ^ 252)) hm
      have heven := htie (.inr (by omega))
      have hm' : roundedSignificand n d ≤ 2 ^ 24 - 2 := by omega
      have := Nat.mul_le_mul_left (2 * (d * 2 ^ 252)) hm'
      omega
  · have hquantum : d * 2 ^ 254 ≤ d * 2 ^ quantumExp n d :=
      Nat.mul_le_mul_left d (Nat.pow_le_pow_right two_pos (by omega))
    have hge := le_roundedSignificand hd (by omega : quantumExp n d ≠ 0)
    have hn := quanta_le (by omega : quantumExp n d ≠ 0)
    have h254 : d * 2 ^ 254 = 4 * (d * 2 ^ 252) := by ring
    omega

/-! ### No finite value is nearer than the rounded significand (R10 (1), (3))

A finite value is a multiple of the quantum, or it lies below 2^23 quanta. The first kind is half a quantum away at
least, the second kind is further away than 2^23 quanta, a value of the first kind. -/

/-- `p` is as near to `x` as `q` is, and `even` if `q` is another value as near. -/
def NearestEven (x p q : ℚ) (even : Prop) : Prop :=
  |x - p| ≤ |x - q| ∧ (|x - p| = |x - q| → q ≠ p → even)

theorem NearestEven.of_lt {x p q : ℚ} {even : Prop} (h : |x - p| < |x - q|) : NearestEven x p q even :=
  ⟨h.le, fun heq => absurd heq h.ne⟩

theorem NearestEven.mul_right {x p q u : ℚ} {even : Prop} (h : NearestEven x p q even) (hu : u ≠ 0) :
    NearestEven (x * u) (p * u) (q * u) even := by
  obtain ⟨hle, htie⟩ := h
  unfold NearestEven
  rw [← sub_mul, ← sub_mul, abs_mul, abs_mul]
  have hu' := abs_pos.mpr hu
  exact ⟨mul_le_mul_of_nonneg_right hle hu'.le,
    fun heq hne => htie (mul_right_cancel₀ hu'.ne' heq) fun hqp => hne (by rw [hqp])⟩

theorem roundedSignificand_within_half (n : Nat) {d : Nat} (hd : 0 < d) :
    |(n : ℚ) / d - roundedSignificand n d * 2 ^ quantumExp n d| ≤ 2 ^ quantumExp n d / 2 ∧
      (|(n : ℚ) / d - roundedSignificand n d * 2 ^ quantumExp n d| = 2 ^ quantumExp n d / 2 →
        roundedSignificand n d % 2 = 0) := by
  obtain ⟨hupper, hlower, htie⟩ := roundHalfEven_nearest n (quantum_pos n hd)
  rw [← roundedSignificand] at hupper hlower htie
  generalize roundedSignificand n d = m at *
  generalize quantumExp n d = k at *
  have hd' : (0 : ℚ) < d := by exact_mod_cast hd
  have hn : (n : ℚ) = n / d * d := by field_simp
  generalize (n : ℚ) / d = x at hn ⊢
  have hupper' : x ≤ m * 2 ^ k + 2 ^ k / 2 := by
    have h : (2 * n : ℚ) ≤ 2 * (d * 2 ^ k * m) + d * 2 ^ k := by exact_mod_cast hlower
    rw [hn] at h
    refine le_of_mul_le_mul_right ?_ hd'
    linarith
  have hlower' : m * 2 ^ k - 2 ^ k / 2 ≤ x := by
    have h : (2 * (d * 2 ^ k * m) : ℚ) ≤ 2 * n + d * 2 ^ k := by exact_mod_cast hupper
    rw [hn] at h
    refine le_of_mul_le_mul_right ?_ hd'
    linarith
  refine ⟨abs_le.mpr ⟨by linarith, by linarith⟩, fun heq => htie ?_⟩
  rcases eq_or_eq_neg_of_abs_eq heq with h | h
  · right
    have : (2 * n : ℚ) = 2 * (d * 2 ^ k * m) + d * 2 ^ k := by
      rw [hn, sub_eq_iff_eq_add.mp h]
      ring
    exact_mod_cast this
  · left
    have : (2 * (d * 2 ^ k * m) : ℚ) = 2 * n + d * 2 ^ k := by
      rw [hn, sub_eq_iff_eq_add.mp h]
      ring
    exact_mod_cast this

/-- Any other multiple of the quantum is a quantum away from the rounded one. -/
theorem nearestEven_multiple (n : Nat) {d : Nat} (hd : 0 < d) (j : ℤ) :
    NearestEven (n / d) (roundedSignificand n d * 2 ^ quantumExp n d) (j * 2 ^ quantumExp n d)
      (roundedSignificand n d % 2 = 0) := by
  obtain ⟨hhalf, htie⟩ := roundedSignificand_within_half n hd
  rcases eq_or_ne j (roundedSignificand n d) with rfl | hne
  · exact ⟨by simp, fun _ h => absurd (by simp) h⟩
  · have hapart : (2 : ℚ) ^ quantumExp n d ≤
        |(j : ℚ) * 2 ^ quantumExp n d - roundedSignificand n d * 2 ^ quantumExp n d| := by
      have hq : (0 : ℚ) < 2 ^ quantumExp n d := by positivity
      have hone : (1 : ℚ) ≤ |(j : ℚ) - roundedSignificand n d| := by
        exact_mod_cast Int.one_le_abs (sub_ne_zero.mpr hne)
      rw [← sub_mul, abs_mul, abs_of_pos hq]
      exact le_mul_of_one_le_left hq.le hone
    have htriangle := abs_sub_le ((j : ℚ) * 2 ^ quantumExp n d) ((n : ℚ) / d)
      (roundedSignificand n d * 2 ^ quantumExp n d)
    rw [abs_sub_comm _ ((n : ℚ) / d)] at htriangle
    exact ⟨by linarith, fun heq _ => htie (by linarith)⟩

/-- A finite value is a multiple of 2^k units, or its magnitude is below 2^23 * 2^k units. -/
theorem f32Mag_dvd_or_lt (b : Word) (k : Nat) : 2 ^ k ∣ f32Mag b ∨ f32Mag b < 2 ^ 23 * 2 ^ k := by
  have hfrac := f32Frac_lt b
  have hpow : 1 ≤ 2 ^ k := Nat.one_le_two_pow
  unfold f32Mag
  split
  · exact .inr (by omega)
  · rcases Nat.lt_or_ge (f32Exp b - 1) k with h | h
    · right
      calc (2 ^ 23 + f32Frac b) * 2 ^ (f32Exp b - 1)
          < 2 ^ 24 * 2 ^ (f32Exp b - 1) := Nat.mul_lt_mul_of_pos_right (by omega) (by positivity)
        _ = 2 ^ 23 * 2 ^ (f32Exp b - 1 + 1) := by ring
        _ ≤ 2 ^ 23 * 2 ^ k := Nat.mul_le_mul_left _ (Nat.pow_le_pow_right two_pos h)
    · exact .inl (Dvd.dvd.mul_left (Nat.pow_dvd_pow 2 h) _)

/-- Above the subnormals, a value below 2^23 quanta is farther away than 2^23 quanta are. -/
theorem nearestEven_below (n : Nat) {d : Nat} (hd : 0 < d) (hk : quantumExp n d ≠ 0) {q : ℚ}
    (hq : q < 2 ^ 23 * 2 ^ quantumExp n d) :
    NearestEven (n / d) (roundedSignificand n d * 2 ^ quantumExp n d) q (roundedSignificand n d % 2 = 0) := by
  have habove : (2 : ℚ) ^ 23 * 2 ^ quantumExp n d ≤ n / d := by
    rw [le_div_iff₀ (by exact_mod_cast hd)]
    have h : ((d * 2 ^ quantumExp n d * 2 ^ 23 : ℕ) : ℚ) ≤ n := by exact_mod_cast quanta_le hk
    push_cast at h
    linarith
  have hnearer := (nearestEven_multiple n hd (2 ^ 23)).1
  rw [Int.cast_pow, Int.cast_ofNat, abs_of_nonneg (sub_nonneg.mpr habove)] at hnearer
  apply NearestEven.of_lt
  rw [abs_of_pos (sub_pos.mpr (hq.trans_le habove))]
  linarith

/-- `z` is the value of the finite pattern `c`, or its negation, in units of 2^-149. -/
theorem roundedSignificand_nearestEven (n : Nat) {d : Nat} (hd : 0 < d) {z : ℤ} {c : Word}
    (hz : z.natAbs = f32Mag c) :
    NearestEven (n / d) (roundedSignificand n d * 2 ^ quantumExp n d) z (roundedSignificand n d % 2 = 0) := by
  by_cases hdvd : 2 ^ quantumExp n d ∣ f32Mag c
  · obtain ⟨j, rfl⟩ : (2 : ℤ) ^ quantumExp n d ∣ z := by
      rw [← Int.natAbs_dvd_natAbs, hz]
      simpa [Int.natAbs_pow] using hdvd
    simpa [mul_comm] using nearestEven_multiple n hd j
  · have hlt := (f32Mag_dvd_or_lt c (quantumExp n d)).resolve_left hdvd
    have hk : quantumExp n d ≠ 0 := fun h0 => hdvd (by simp [h0])
    have hz' : z < 2 ^ 23 * 2 ^ quantumExp n d := by
      have : (z.natAbs : ℤ) < 2 ^ 23 * 2 ^ quantumExp n d := by
        rw [hz]
        exact_mod_cast hlt
      omega
    exact nearestEven_below n hd hk (by exact_mod_cast hz')

/-! ### Values with a sign (R9), and a rounded exact result as a pattern (R10)

An exact product or sum is `signedUnits s (n / d)` for some sign and fraction, and `f32Mul` and `f32Add` answer
`f32Pattern s (roundQuotient n d)`. -/

/-- The rational with sign `s` and magnitude `x` units of 2^-149. -/
def signedUnits (s : Bool) (x : ℚ) : ℚ := (if s then -x else x) * 2 ^ (-149 : ℤ)

theorem signedUnits_eq_mul (s : Bool) (x : ℚ) : signedUnits s x = x * signedUnits s 1 := by
  cases s <;> simp [signedUnits]

theorem signedUnits_one_ne_zero (s : Bool) : signedUnits s 1 ≠ 0 := by cases s <;> simp [signedUnits]

theorem abs_signedUnits (s : Bool) {x : ℚ} (hx : 0 ≤ x) : |signedUnits s x| = x * 2 ^ (-149 : ℤ) := by
  cases s <;> simp [signedUnits, abs_mul, abs_of_nonneg hx]

theorem signedUnits_neg_iff (s : Bool) {x : ℚ} (hx : 0 < x) : signedUnits s x < 0 ↔ s = true := by
  have hu : (0 : ℚ) < x * 2 ^ (-149 : ℤ) := by positivity
  cases s
  · simpa [signedUnits] using hu.le
  · simpa [signedUnits] using hu

theorem val_eq_signedUnits (b : Word) : val b = signedUnits (f32Sign b) (f32Mag b) := by
  rw [val_eq_scaled, f32Scaled, signedUnits]
  split <;> push_cast <;> rfl

/-- A value is a signed number of units under either sign. -/
theorem exists_val_eq_signedUnits (s : Bool) (c : Word) :
    ∃ z : ℤ, z.natAbs = f32Mag c ∧ val c = signedUnits s z := by
  rcases Bool.eq_or_eq_not s (f32Sign c) with rfl | rfl
  · exact ⟨f32Mag c, by simp, by simp [val_eq_signedUnits]⟩
  · refine ⟨-f32Mag c, by simp, ?_⟩
    rw [val_eq_signedUnits]
    cases f32Sign c <;> simp [signedUnits]

theorem isFinite_roundQuotient (s : Bool) (n d : Nat) :
    isFinite (f32Pattern s (roundQuotient n d)) = true ↔ roundQuotient n d < 255 * 2 ^ 23 :=
  isFinite_pattern s (roundQuotient_lt n d)

theorem roundQuotient_eq_of_lt {n d : Nat} (h : roundQuotient n d < 255 * 2 ^ 23) :
    roundQuotient n d = quantumExp n d * 2 ^ 23 + roundedSignificand n d := by
  rw [roundQuotient_eq] at *
  omega

theorem val_roundQuotient (s : Bool) (n : Nat) {d : Nat} (hd : 0 < d)
    (hfin : isFinite (f32Pattern s (roundQuotient n d)) = true) :
    val (f32Pattern s (roundQuotient n d)) = signedUnits s (roundedSignificand n d * 2 ^ quantumExp n d) := by
  rw [isFinite_roundQuotient] at hfin
  have hfields := roundQuotient_eq_of_lt hfin
  have hmag := f32Mag_pattern s (roundedSignificand_le n hd) (le_roundedSignificand hd) (hfields ▸ hfin)
  rw [← hfields] at hmag
  rw [val_eq_signedUnits, f32Sign_pattern s (roundQuotient_lt n d), hmag, Nat.cast_mul, Nat.cast_pow,
    Nat.cast_ofNat]

/-- A rounded result that is finite is a nearest binary32 value, and the even one on a tie (R10 (1), (3)). -/
theorem roundQuotient_nearestEven (s : Bool) (n : Nat) {d : Nat} (hd : 0 < d)
    (hfin : isFinite (f32Pattern s (roundQuotient n d)) = true) (c : Word) :
    NearestEven (signedUnits s (n / d)) (val (f32Pattern s (roundQuotient n d))) (val c)
      ((f32Pattern s (roundQuotient n d)).getLsbD 0 = false) := by
  obtain ⟨z, hz, hc⟩ := exists_val_eq_signedUnits s c
  rw [val_roundQuotient s n hd hfin, hc, signedUnits_eq_mul s (n / d), signedUnits_eq_mul s z,
    signedUnits_eq_mul s (_ * _)]
  obtain ⟨hle, htie⟩ := (roundedSignificand_nearestEven n hd hz).mul_right (signedUnits_one_ne_zero s)
  refine ⟨hle, fun heq hne => getLsbD_zero_pattern s (roundQuotient_lt n d) ?_⟩
  have heven := htie heq hne
  rw [roundQuotient_eq_of_lt ((isFinite_roundQuotient s n d).mp hfin)]
  omega

/-- A result overflows exactly from halfway between the largest finite value and 2^128 on (R10 (2)). -/
theorem not_isFinite_roundQuotient_iff (s : Bool) (n : Nat) {d : Nat} (hd : 0 < d) :
    isFinite (f32Pattern s (roundQuotient n d)) = false ↔ (2 : ℚ) ^ 128 - 2 ^ 103 ≤ |signedUnits s (n / d)| := by
  have hd' : (0 : ℚ) < d := by exact_mod_cast hd
  have hbound : (2 : ℚ) ^ 128 - 2 ^ 103 = (2 ^ 25 - 1) * 2 ^ 252 * 2 ^ (-149 : ℤ) := by norm_num
  rw [← Bool.not_eq_true, isFinite_roundQuotient, not_lt, roundQuotient_overflow_iff n hd,
    abs_signedUnits s (by positivity), hbound, mul_le_mul_iff_left₀ (by positivity), le_div_iff₀ hd',
    ← Nat.cast_le (α := ℚ)]
  refine iff_of_eq (congrArg (· ≤ (n : ℚ)) ?_)
  push_cast
  ring

theorem roundQuotient_of_overflow (s : Bool) {n d : Nat}
    (h : isFinite (f32Pattern s (roundQuotient n d)) = false) :
    roundQuotient n d = 255 * 2 ^ 23 := by
  rw [← Bool.not_eq_true, isFinite_roundQuotient] at h
  rw [roundQuotient_eq] at *
  omega

/-- An overflow has the sign of the exact result (R10 (2)). -/
theorem f32Pattern_of_overflow (s : Bool) (n : Nat) {d : Nat} (hd : 0 < d)
    (h : isFinite (f32Pattern s (roundQuotient n d)) = false) :
    f32Pattern s (roundQuotient n d) = if signedUnits s (n / d) < 0 then 0xFF800000 else 0x7F800000 := by
  have hpos : (0 : ℚ) < n / d := by
    by_contra hnot
    have hzero : (n : ℚ) / d = 0 := le_antisymm (not_lt.mp hnot) (by positivity)
    have := (not_isFinite_roundQuotient_iff s n hd).mp h
    norm_num [hzero, signedUnits] at this
  simp only [signedUnits_neg_iff s hpos, roundQuotient_of_overflow s h]
  cases s <;> rfl

/-! ### Products and sums of finite operands -/

section FiniteOperands
variable {a b : Word} (ha : isFinite a = true) (hb : isFinite b = true)
include ha hb

theorem f32Mul_of_isFinite :
    f32Mul a b = f32Pattern (f32Sign a ^^ f32Sign b) (roundQuotient (f32Mag a * f32Mag b) (2 ^ 149)) := by
  simp [f32Mul, isNaN_eq_false_of_isFinite, isInf_eq_false_of_isFinite, roundMag_eq, ha, hb]

theorem f32Add_of_isFinite : f32Add a b = f32AddFinite a b := by
  simp [f32Add, isNaN_eq_false_of_isFinite, isInf_eq_false_of_isFinite, ha, hb]

end FiniteOperands

/-- The sign of a sum: of two negative operands where it is exactly zero, else of the exact sum (R10 (4)). -/
def sumSign (a b : Word) : Bool :=
  if f32Scaled a + f32Scaled b = 0 then f32Sign a && f32Sign b else decide (f32Scaled a + f32Scaled b < 0)

theorem f32AddFinite_eq (a b : Word) :
    f32AddFinite a b = f32Pattern (sumSign a b) (roundQuotient (f32Scaled a + f32Scaled b).natAbs 1) := by
  have hround : ∀ n, roundMag 0 n = roundQuotient n 1 := roundMag_eq 0
  unfold f32AddFinite sumSign
  split
  · rename_i h
    rw [h]
    rfl
  · rename_i h
    simp only [h, if_false, hround]

theorem val_mul_val (a b : Word) :
    val a * val b =
      signedUnits (f32Sign a ^^ f32Sign b) ((f32Mag a * f32Mag b : ℕ) / (2 ^ 149 : ℕ)) := by
  have hunit : (2 : ℚ) ^ (-149 : ℤ) = 1 / 2 ^ 149 := by norm_num
  rw [val_eq_signedUnits a, val_eq_signedUnits b]
  cases f32Sign a <;> cases f32Sign b <;> simp [signedUnits, hunit] <;> ring

theorem val_add_val_eq_scaled (a b : Word) :
    val a + val b = (f32Scaled a + f32Scaled b : ℤ) * 2 ^ (-149 : ℤ) := by
  rw [val_eq_scaled a, val_eq_scaled b, Int.cast_add, add_mul]

theorem val_add_val (a b : Word) :
    val a + val b = signedUnits (sumSign a b) ((f32Scaled a + f32Scaled b).natAbs / (1 : ℕ)) := by
  rw [val_add_val_eq_scaled, sumSign]
  generalize f32Scaled a + f32Scaled b = t
  rcases lt_trichotomy t 0 with ht | rfl | ht
  · simp [signedUnits, ht, ht.ne, abs_of_neg]
  · simp [signedUnits]
  · simp [signedUnits, ht.ne', ht.le, abs_of_pos ht]

theorem val_add_val_eq_zero_iff (a b : Word) : val a + val b = 0 ↔ f32Scaled a + f32Scaled b = 0 := by
  have hu : (2 : ℚ) ^ (-149 : ℤ) ≠ 0 := by positivity
  rw [val_add_val_eq_scaled, mul_eq_zero_iff_right hu, Int.cast_eq_zero]

/-- A sum that is not zero has the sign of the exact sum. -/
theorem sumSign_eq_of_ne_zero {a b : Word} (h : val a + val b ≠ 0) : sumSign a b = decide (val a + val b < 0) := by
  have hpos : (0 : ℚ) < (f32Scaled a + f32Scaled b).natAbs / (1 : ℕ) := by
    rw [ne_eq, val_add_val_eq_zero_iff, ← Int.natAbs_eq_zero] at h
    have := Nat.pos_of_ne_zero h
    positivity
  rw [Bool.eq_iff_iff, decide_eq_true_iff, val_add_val, signedUnits_neg_iff _ hpos]

end Sys2Proof.Machine
end

section
/-! PROOFS. binary32 products, sums and the mix. -/

namespace Sys2Proof.Machine

/-! ### The obligations on binary32 (00_scope.md R9 to R11) -/

/-- Settles O51: the product is the rounding of a signed fraction of units. -/
theorem productRoundsToNearestEven : Obligations.ProductRoundsToNearestEven := by
  intro a b ha hb hfin
  rw [f32Mul_of_isFinite ha hb] at hfin ⊢
  rw [val_mul_val]
  exact ⟨f32Sign_pattern _ (roundQuotient_lt _ _), fun c _ =>
    roundQuotient_nearestEven _ _ (by positivity) hfin c⟩

/-- Settles O52: the sum is the rounding of a signed whole number of units. -/
theorem sumRoundsToNearestEven : Obligations.SumRoundsToNearestEven := by
  intro a b ha hb hfin
  rw [f32Add_of_isFinite ha hb, f32AddFinite_eq] at hfin ⊢
  refine ⟨fun hzero => ?_, fun hne => ?_, fun c _ => ?_⟩
  · rw [val_add_val_eq_zero_iff] at hzero
    rw [sumSign, hzero]
    cases f32Sign a <;> cases f32Sign b <;> rfl
  · rw [f32Sign_pattern _ (roundQuotient_lt _ _), sumSign_eq_of_ne_zero hne]
  · rw [val_add_val]
    exact roundQuotient_nearestEven _ _ one_pos hfin c

/-- Settles O53: product and sum are both roundings of their exact result. -/
theorem overflowGivesInfinityOfTheExactSign : Obligations.OverflowGivesInfinityOfTheExactSign := by
  intro a b ha hb
  rw [f32Mul_of_isFinite ha hb, f32Add_of_isFinite ha hb, f32AddFinite_eq, val_mul_val, val_add_val]
  exact ⟨not_isFinite_roundQuotient_iff _ _ (by positivity), f32Pattern_of_overflow _ _ (by positivity),
    not_isFinite_roundQuotient_iff _ _ one_pos, f32Pattern_of_overflow _ _ one_pos⟩

/-! Infinities and NaNs (R10 (6), (7)) -/

theorem f32Mul_of_isNaN {a b : Word} (h : isNaN a = true ∨ isNaN b = true) : f32Mul a b = canonicalNaN :=
  if_pos (h.imp_right .inl)

theorem f32Add_of_isNaN {a b : Word} (h : isNaN a = true ∨ isNaN b = true) : f32Add a b = canonicalNaN :=
  if_pos (h.imp_right .inl)

theorem f32Mul_isInf_isZero {a b : Word}
    (h : (isInf a = true ∧ isZero b = true) ∨ (isZero a = true ∧ isInf b = true)) : f32Mul a b = canonicalNaN :=
  if_pos (.inr (.inr h))

/-- An infinity times anything but a NaN or a zero. -/
theorem f32Mul_isInf_left {a b : Word} (ha : isInf a = true) (hnan : isNaN b = false) (hzero : isZero b = false) :
    f32Mul a b = f32Inf (f32Sign a ^^ f32Sign b) := by
  simp [f32Mul, ha, hnan, hzero, isNaN_eq_false_of_isInf, isZero_eq_false_of_isInf]

theorem f32Mul_isInf_right {a b : Word} (ha : isInf a = true) (hnan : isNaN b = false) (hzero : isZero b = false) :
    f32Mul b a = f32Inf (f32Sign a ^^ f32Sign b) := by
  simp [f32Mul, ha, hnan, hzero, isNaN_eq_false_of_isInf, isZero_eq_false_of_isInf, Bool.xor_comm]

theorem f32Add_opposite_infinities {a b : Word} (ha : isInf a = true) (hb : isInf b = true)
    (hs : f32Sign a ≠ f32Sign b) : f32Add a b = canonicalNaN :=
  if_pos (.inr (.inr ⟨ha, hb, hs⟩))

/-- An infinity plus a finite value, on either side, or plus itself. -/
theorem f32Add_isInf_isFinite {a b : Word} (ha : isInf a = true) (hb : isFinite b = true) :
    f32Add a b = a ∧ f32Add b a = a := by
  simp [f32Add, ha, isNaN_eq_false_of_isInf, isNaN_eq_false_of_isFinite hb, isInf_eq_false_of_isFinite hb]

theorem f32Add_isInf_self {a : Word} (ha : isInf a = true) : f32Add a a = a := by
  simp [f32Add, ha, isNaN_eq_false_of_isInf]

/-- Settles O54, one rule of R10 (6), (7) per clause. -/
theorem infinitiesAndNaNsFollowTheRule : Obligations.InfinitiesAndNaNsFollowTheRule := by
  intro a b
  refine ⟨fun h => ?_, fun h => ?_, fun ha hnan hzero => ?_, fun ha hb hne => ?_, f32Add_isInf_isFinite,
    f32Add_isInf_self⟩
  · rw [f32Mul_of_isNaN h, f32Add_of_isNaN h]
    exact ⟨isNaN_canonicalNaN, isNaN_canonicalNaN⟩
  · rw [f32Mul_isInf_isZero h]
    exact isNaN_canonicalNaN
  · rw [f32Mul_isInf_right ha hnan hzero, f32Mul_isInf_left ha hnan hzero]
    exact ⟨isInf_f32Inf _, f32Sign_f32Inf _, rfl⟩
  · rw [f32Add_opposite_infinities ha hb fun hs => hne (eq_of_isInf ha hb hs)]
    exact isNaN_canonicalNaN

theorem canon_of_isNaN {b : Word} (h : isNaN b = true) : canon b = canonicalNaN := if_pos h

theorem canon_of_not_isNaN {b : Word} (h : isNaN b = false) : canon b = b := by simp [canon, h]

theorem canon_eq_of_isNaN_canon {b : Word} (h : isNaN (canon b) = true) : canon b = canonicalNaN := by
  cases hb : isNaN b with
  | true => exact canon_of_isNaN hb
  | false =>
    rw [canon_of_not_isNaN hb, hb] at h
    cases h

/-- Settles O55: `mix` is `canon` of the sum. -/
theorem mixCanonicalisesEveryNaN : Obligations.MixCanonicalisesEveryNaN :=
  ⟨fun _ => ⟨canon_of_isNaN, canon_of_not_isNaN⟩,
    fun _ _ _ => ⟨canon_of_isNaN, canon_of_not_isNaN, canon_eq_of_isNaN_canon⟩⟩

end Sys2Proof.Machine
end

section
/-! PROOFS. What a command can leave of the block, said once for all commands; the invariant every step keeps; the
writers of each register, cell and cursor; and the register view. -/

namespace Sys2Proof.Machine

/-! ### The effect of a command on the block (10_state.md R20) -/

/-- What command `i` can leave of the block of state `s`. -/
inductive BlockEffect (s : State) : Instr → Block → Prop
  | kept {i : Instr} : BlockEffect s i s.blk
  | errorRecorded {i : Instr} (e : ErrorCode) : BlockEffect s i (s.blk.recordError e)
  | errorsCleared : BlockEffect s .clearErr s.blk.clearErrors
  | delayMsSet (ms : Word) : BlockEffect s (.setDelayMs ms) { s.blk with delayMs := ms }
  | wetGainSet (g : Word) : BlockEffect s (.setWetGain g) { s.blk with wetGain := g }
  | sessionStarted {n : Field8} {cap rate : Word} (hlegal : configOutOfRange s.cfg n cap rate = false) :
      BlockEffect s (.prepare n cap rate) (s.blk.startSession (channelCountOperand n) cap rate)
  | sessionEnded : BlockEffect s .release s.blk.endSession
  | latchDropped : BlockEffect s .beginBlock (s.blk.clearLatch.recordError .delayRange)
  | bypassLatched (hses : s.blk.session = .prepared) : BlockEffect s .beginBlock (s.blk.setLatch true 0)
  | delayLatched {d : Nat} (hses : s.blk.session = .prepared)
      (hconv : convert s.blk.delayMs s.blk.sampleRate s.blk.capacity = .delay d) :
      BlockEffect s .beginBlock (s.blk.setLatch false (BitVec.ofNat 32 d))
  | cellWritten {ch : Field8} {i v : Word} (hcell : s.blk.hasCell ch.toNat i.toNat = true) :
      BlockEffect s (.storeWrite ch i v) { s.blk with rb := s.blk.rb.write (cellKey ch.toNat i.toNat) v }
  | cursorAdvanced {ch : Field8} {w : Word} (hcur : s.blk.cursor ch.toNat = some w) :
      BlockEffect s (.storeAdvance ch) (s.blk.setCursor ch.toNat (advanceCursor s.blk.capacity w))
  | sampleProcessed {ch : Field8} {x w : Word} (hcur : s.blk.cursor ch.toNat = some w)
      (hcell : s.blk.hasCell ch.toNat w.toNat = true) :
      BlockEffect s (.processSample ch x)
        (Block.setCursor { s.blk with rb := s.blk.rb.write (cellKey ch.toNat w.toNat) x } ch.toNat
          (advanceCursor s.blk.capacity w))

theorem BlockEffect.of_rejectedWith {es : List ErrorCode} {i : Instr} {s t : State} (h : RejectedWith es s t) :
    BlockEffect s i t.blk := by
  obtain ⟨e, -, rfl⟩ := h
  exact .errorRecorded e

/-- Every command that answers a next state has one of the effects. -/
theorem exec_blockEffect {i : Instr} {s t : State} (h : exec i s = .next t) : BlockEffect s i t.blk := by
  cases i with
  | nop => rw [execNop_next h]; exact .kept
  | setDelayMs ms => rw [execSetDelayMs_next h]; exact .delayMsSet ms
  | setWetGain g => rw [execSetWetGain_next h]; exact .wetGainSet g
  | prepare n cap rate =>
    rcases execPrepare_next h with hrej | ⟨-, hlegal, rfl⟩
    · exact .of_rejectedWith hrej
    · exact .sessionStarted hlegal
  | release =>
    rcases execRelease_next h with hrej | ⟨-, rfl⟩
    · exact .of_rejectedWith hrej
    · exact .sessionEnded
  | beginBlock =>
    rcases execBeginBlock_next h with hrej | ⟨-, hses, ⟨-, rfl⟩ | ⟨-, rfl⟩ | ⟨d, hconv, rfl⟩⟩
    · exact .of_rejectedWith hrej
    · exact .latchDropped
    · exact .bypassLatched hses
    · exact .delayLatched hses hconv
  | processSample ch x =>
    rcases execProcessSample_next h with hrej | ⟨-, -, -, -, ⟨-, rfl⟩ | ⟨-, w, tap, hcur, -, hcell, rfl⟩⟩
    · exact .of_rejectedWith hrej
    · exact .kept
    · exact .sampleProcessed hcur hcell
  | storeRead ch i =>
    rcases execStoreRead_next h with hrej | ⟨-, v, -, rfl⟩
    · exact .of_rejectedWith hrej
    · exact .kept
  | storeWrite ch i v =>
    rcases execStoreWrite_next h with hrej | ⟨-, hcell, rfl⟩
    · exact .of_rejectedWith hrej
    · exact .cellWritten hcell
  | storeAdvance ch =>
    rcases execStoreAdvance_next h with hrej | ⟨-, -, -, w, hcur, rfl⟩
    · exact .of_rejectedWith hrej
    · exact .cursorAdvanced hcur
  | getCursor ch =>
    rcases execGetCursor_next h with hrej | ⟨-, w, -, rfl⟩
    · exact .of_rejectedWith hrej
    · exact .kept
  | getReadCursor ch =>
    rcases execGetReadCursor_next h with hrej | ⟨-, -, w, -, rfl⟩
    · exact .of_rejectedWith hrej
    · exact .kept
  | readReg n =>
    rcases execReadReg_next h with ⟨-, rfl⟩ | ⟨v, -, -, rfl⟩
    · exact .errorRecorded _
    · exact .kept
  | clearErr =>
    rcases execClearErr_next h with hrej | ⟨-, rfl⟩
    · exact .of_rejectedWith hrej
    · exact .errorsCleared

/-! ### Facts the invariant turns on -/

theorem ErrorCode.code_toNat_le (e : ErrorCode) : e.code.toNat ≤ 8 := by cases e <;> decide

theorem cellKey_div {i : Nat} (ch : Nat) (hi : i < 2 ^ 32) : cellKey ch i / 2 ^ 32 = ch := by
  unfold cellKey; omega

theorem cellKey_mod {i : Nat} (ch : Nat) (hi : i < 2 ^ 32) : cellKey ch i % 2 ^ 32 = i := by
  unfold cellKey; omega

/-- What PREPARE's operand check admits (41_store.md R120). -/
theorem configOutOfRange_eq_false {p : Params} {n : Field8} {cap rate : Word}
    (h : configOutOfRange p n cap rate = false) :
    rate ≠ 0 ∧ (1 ≤ n.toNat ∧ n.toNat ≤ p.chMax.toNat) ∧ 1 ≤ cap.toNat ∧ cap.toNat ≤ p.capMax.toNat := by
  simp only [configOutOfRange, channelCountOperand_toNat, decide_eq_false_iff_not, not_or, not_lt] at h
  obtain ⟨hn, hcap, hrate, hnMax, hcapMax⟩ := h
  exact ⟨hrate, ⟨hn, hnMax⟩, hcap, hcapMax⟩

/-- A converted delay is between one sample and the capacity (42_engine.md R150). -/
theorem convert_delay_bounds {ms rate cap : Word} {d : Nat} (h : convert ms rate cap = .delay d) :
    1 ≤ d ∧ d ≤ cap.toNat := by
  unfold convert at h
  split_ifs at h with _ _ hone hcap
  cases h
  omega

/-! ### Every operation on the block keeps the invariant -/

/-- `State.Inv` as a property of the block alone, for an implementation with parameters `p`. -/
def Block.Inv (p : Params) (b : Block) : Prop :=
  b.ConfigInv p ∧ b.StorageInv ∧ b.CursorInv ∧ b.LatchInv ∧ b.ErrorInv

theorem State.inv_iff (s : State) : s.Inv ↔ s.blk.Inv s.cfg := Iff.rfl

/-- Storage that lists no cell meets its part of the invariant. -/
theorem Block.storageInv_nil {b : Block} (h : b.rb = []) : b.StorageInv :=
  ⟨h ▸ Memory.wf_nil, by simp [h]⟩

theorem Block.powerOn_inv (p : Params) : Block.powerOn.Inv p := by
  refine ⟨?_, Block.storageInv_nil rfl, ?_, ?_, ?_⟩ <;>
    simp [Block.powerOn, Block.ConfigInv, Block.CursorInv, Block.LatchInv, Block.ErrorInv]

section
variable {p : Params} {b : Block}

theorem Block.Inv.recordError (h : b.Inv p) (e : ErrorCode) : (b.recordError e).Inv p := by
  obtain ⟨hconfig, hstore, hcursor, hlatch, hcode, -⟩ := h
  refine ⟨hconfig, hstore, hcursor, hlatch, ?_, fun _ => ?_⟩
  · rw [Block.recordError_errCode]
    split
    · exact e.code_toNat_le
    · exact hcode
  · rw [Block.recordError_errCode]
    split
    · exact e.code_ne_zero
    · assumption

theorem Block.Inv.clearErrors (h : b.Inv p) : b.clearErrors.Inv p := by
  obtain ⟨hconfig, hstore, hcursor, hlatch, -⟩ := h
  exact ⟨hconfig, hstore, hcursor, hlatch, by simp [Block.ErrorInv]⟩

theorem Block.Inv.clearLatch (h : b.Inv p) : b.clearLatch.Inv p := by
  obtain ⟨hconfig, hstore, hcursor, -, herror⟩ := h
  exact ⟨hconfig, hstore, hcursor, by simp [Block.LatchInv], herror⟩

theorem Block.Inv.setLatch_bypass (h : b.Inv p) (hses : b.session = .prepared) : (b.setLatch true 0).Inv p := by
  obtain ⟨hconfig, hstore, hcursor, -, herror⟩ := h
  exact ⟨hconfig, hstore, hcursor, by simp [Block.LatchInv, hses], herror⟩

theorem Block.Inv.setLatch_delay {d : Nat} (h : b.Inv p) (hses : b.session = .prepared) (hone : 1 ≤ d)
    (hcap : d ≤ b.capacity.toNat) : (b.setLatch false (BitVec.ofNat 32 d)).Inv p := by
  obtain ⟨hconfig, hstore, hcursor, -, herror⟩ := h
  have hd : (BitVec.ofNat 32 d).toNat = d := Nat.mod_eq_of_lt (hcap.trans_lt b.capacity.isLt)
  refine ⟨hconfig, hstore, hcursor, ⟨by simp, by simp, fun _ _ => ?_, fun _ => hses⟩, herror⟩
  rw [Block.setLatch_delaySamples, Block.setLatch_capacity, hd]
  exact ⟨hone, hcap⟩

theorem Block.Inv.startSession {n : Field8} {cap rate : Word} (h : b.Inv p)
    (hlegal : configOutOfRange p n cap rate = false) :
    (b.startSession (channelCountOperand n) cap rate).Inv p := by
  obtain ⟨-, -, -, -, herror⟩ := h
  obtain ⟨hrate, hn, hcap, hcapMax⟩ := configOutOfRange_eq_false hlegal
  refine ⟨⟨by simp, fun _ => ⟨hrate, by simpa using hn, hcap, hcapMax⟩⟩, Block.storageInv_nil rfl,
    ⟨by simp, fun w hw => ?_⟩, by simp [Block.LatchInv], herror⟩
  obtain ⟨-, rfl⟩ : _ ∧ w = 0 := by simpa using hw
  exact hcap

theorem Block.Inv.endSession (h : b.Inv p) : b.endSession.Inv p := by
  obtain ⟨-, -, -, -, herror⟩ := h
  exact ⟨by simp [Block.ConfigInv], Block.storageInv_nil rfl, by simp [Block.CursorInv], by simp [Block.LatchInv],
    herror⟩

/-- A cell written inside the sample space, in canonical form (10_state.md R27). -/
theorem Block.Inv.writeRb {ch i : Nat} (h : b.Inv p) (hcell : b.hasCell ch i = true) (v : Word) :
    Block.Inv p { b with rb := b.rb.write (cellKey ch i) v } := by
  obtain ⟨hconfig, ⟨hwf, hkeys⟩, hcursor, hlatch, herror⟩ := h
  obtain ⟨-, hch, -, hi⟩ := (b.hasCell_iff ch i).mp hcell
  have hi : i < b.capacity.toNat := by exact_mod_cast hi
  have hi32 : i < 2 ^ 32 := hi.trans b.capacity.isLt
  refine ⟨hconfig, ⟨Memory.wf_write _ _ hwf, fun e he => ?_⟩, hcursor, hlatch, herror⟩
  rcases Memory.key_of_mem_write he with hold | ⟨rfl, -⟩
  · exact hkeys e hold
  · rw [cellKey_div ch hi32, cellKey_mod ch hi32]
    exact ⟨hch, hi⟩

/-- A cursor advanced stays below the capacity (10_state.md R24). -/
theorem Block.Inv.advance {ch : Nat} {w : Word} (h : b.Inv p) (hcur : b.cursor ch = some w) :
    (b.setCursor ch (advanceCursor b.capacity w)).Inv p := by
  obtain ⟨hconfig, hstore, ⟨hlen, hbelow⟩, hlatch, herror⟩ := h
  have hw : w.toNat < b.capacity.toNat := hbelow _ (List.mem_map_of_mem (List.mem_of_getElem? hcur))
  refine ⟨hconfig, hstore, ⟨by simpa using hlen, fun u hu => ?_⟩, hlatch, herror⟩
  obtain ⟨v, hv, rfl⟩ := List.mem_map.mp hu
  rcases List.mem_or_eq_of_mem_set hv with hold | rfl
  · exact hbelow _ (List.mem_map_of_mem hold)
  · rw [Block.setCursor_capacity, advanceCursor_toNat hw]
    exact Nat.mod_lt _ (by omega)

end

/-- Every effect keeps the invariant, each by the lemma of its operation. -/
theorem BlockEffect.keeps_inv {s : State} {i : Instr} {b : Block} (h : BlockEffect s i b)
    (hinv : s.blk.Inv s.cfg) : b.Inv s.cfg := by
  cases h with
  | kept | delayMsSet | wetGainSet => exact hinv
  | errorRecorded e => exact hinv.recordError e
  | errorsCleared => exact hinv.clearErrors
  | sessionStarted hlegal => exact hinv.startSession hlegal
  | sessionEnded => exact hinv.endSession
  | latchDropped => exact hinv.clearLatch.recordError _
  | bypassLatched hses => exact hinv.setLatch_bypass hses
  | delayLatched hses hconv =>
    obtain ⟨hone, hcap⟩ := convert_delay_bounds hconv
    exact hinv.setLatch_delay hses hone hcap
  | cellWritten hcell => exact hinv.writeRb hcell _
  | cursorAdvanced hcur => exact hinv.advance hcur
  | sampleProcessed hcur hcell => exact (hinv.writeRb hcell _).advance hcur

/-! ### Every step keeps the invariant -/

theorem serve_noCommand_blk {p : Port} {s t : State} (h : serve p s = .noCommand t) : t.blk = s.blk := by
  rcases serve_eq p s with he | ⟨-, _, _, -, he⟩ | ⟨-, _, _, -, he⟩ <;> rw [he] at h <;> cases h
  rfl

/-- A step that takes no command leaves the block alone or resets it. -/
theorem select_noCommand_blk {s t : State} (h : select s = .noCommand t) :
    t.blk = s.blk ∨ t.blk = Block.powerOn := by
  unfold select at h
  split at h
  · left
    unfold arbitrate at h
    split at h
    · cases h
      rfl
    all_goals exact (serve_noCommand_blk h).trans rfl
  · exact .inl ((serve_noCommand_blk h).trans rfl)
  · cases h
    exact .inr rfl

theorem State.inv_of_eq {s t : State} (hinv : s.Inv) (hblk : t.blk = s.blk) (hcfg : t.cfg = s.cfg) : t.Inv := by
  rw [State.inv_iff, hblk, hcfg]
  exact hinv

theorem select_noCommand_keeps_inv {s t : State} (h : select s = .noCommand t) (hinv : s.Inv) : t.Inv := by
  rcases select_noCommand_blk h with hblk | hblk
  · exact State.inv_of_eq hinv hblk (select_noCommand_cfg h)
  · rw [State.inv_iff, hblk]
    exact Block.powerOn_inv t.cfg

theorem select_command_keeps_inv {s t : State} {c : Command} (h : select s = .command c t) (hinv : s.Inv) :
    t.Inv := by
  obtain ⟨hblk, hcfg, -⟩ := select_command_frame h
  exact State.inv_of_eq hinv hblk hcfg

theorem exec_keeps_inv {i : Instr} {s t : State} (h : exec i s = .next t) (hinv : s.Inv) : t.Inv := by
  rw [State.inv_iff, exec_cfg h]
  exact (exec_blockEffect h).keeps_inv hinv

/-- Settles O14: selection keeps the invariant, and so do the rejection of illegal words and every command. -/
theorem everyStepKeepsTheInvariant : Obligations.EveryStepKeepsTheInvariant := by
  intro s t hinv h
  rcases step_eq s with ⟨u, hsel, hstep⟩ | ⟨c, u, why, hsel, -, hstep⟩ | ⟨c, u, i, hsel, -, hstep⟩ <;>
    rw [hstep] at h
  · rw [next_inj h]
    exact select_noCommand_keeps_inv hsel hinv
  · rw [next_inj h]
    exact Block.Inv.recordError (select_command_keeps_inv hsel hinv) .illegalCmd
  · exact exec_keeps_inv h (select_command_keeps_inv hsel hinv)

/-- Settles O15: the power-on block meets the invariant under any parameters. -/
theorem resetMeetsTheInvariant : Obligations.ResetMeetsTheInvariant :=
  ⟨Block.powerOn_inv, Block.powerOn_inv Config.params⟩

/-! ### The writers of each piece of state (10_state.md R23, R27 to R31) -/

/-- Settles O18, one effect at a time: each writes the registers its commands are named for. -/
theorem registersHaveOnlyTheirNamedWriters : Obligations.RegistersHaveOnlyTheirNamedWriters := by
  intro i s t h
  have heffect := exec_blockEffect h
  generalize t.blk = b at heffect
  cases heffect with
  | sessionStarted => exact ⟨fun hno => absurd rfl (hno _ _ _), by simp, by simp⟩
  | sessionEnded => exact ⟨fun _ hno => absurd rfl hno, by simp, by simp⟩
  | delayMsSet ms => exact ⟨by simp, fun hno => absurd rfl (hno ms), by simp⟩
  | wetGainSet g => exact ⟨by simp, by simp, fun hno => absurd rfl (hno g)⟩
  | kept | errorRecorded | errorsCleared | latchDropped | bypassLatched | delayLatched | cellWritten
  | cursorAdvanced | sampleProcessed => simp

/-- A cell reads the same in blocks with the same sample space and storage. -/
theorem Block.readCell_congr {b b' : Block} (hses : b'.session = b.session)
    (hcount : b'.channelCount = b.channelCount) (hcap : b'.capacity = b.capacity) (hrb : b'.rb = b.rb)
    (ch : Nat) (j : Int) : b'.readCell ch j = b.readCell ch j := by
  simp [Block.readCell, Block.hasCell, hses, hcount, hcap, hrb]

/-- Settles O19, one effect at a time: the effects left over write the storage or the cursors only under the
command named for it. -/
theorem otherCommandsKeepStorageAndCursors : Obligations.OtherCommandsKeepStorageAndCursors := by
  intro i s t h hprepare hrelease hprocess
  have heffect := exec_blockEffect h
  generalize t.blk = b at heffect
  cases heffect with
  | sessionStarted => exact absurd rfl (hprepare _ _ _)
  | sessionEnded => exact absurd rfl hrelease
  | sampleProcessed => exact absurd rfl (hprocess _ _)
  | cellWritten => exact ⟨fun hno => absurd rfl (hno _ _ _), fun _ _ => rfl⟩
  | cursorAdvanced =>
    exact ⟨fun _ => Block.readCell_congr rfl rfl rfl rfl, fun hno => absurd rfl (hno _)⟩
  | kept | errorRecorded | errorsCleared | delayMsSet | wetGainSet | latchDropped | bypassLatched
  | delayLatched => exact ⟨fun _ => Block.readCell_congr rfl rfl rfl rfl, fun _ _ => rfl⟩

/-! ### The register view (10_state.md R34, R35) -/

theorem decode_readReg (n w2 : Word) :
    decode ⟨0x0C000000, n, w2⟩ = if n.toNat ≤ 9 then .legal (.readReg n) else .illegal .registerNumber := by
  have hheader : (0x0C000000 : Word) = header 0x0C 0 := by decide
  rw [hheader]
  simp [decode, instrOf, Instr.isWellFormed, Laws.opField_header, Laws.chField_header, Laws.rsvField_header]

theorem execReadReg_of_register {n v : Word} {s : State} (h : s.register n.toNat = some v) :
    exec (.readReg n) s = .next (respond v s) := by
  simp [exec, execReadReg, indexOperand, h]

/-- R35's table, as a list: the register of each number. -/
theorem State.register_eq_getElem? (s : State) (k : Nat) :
    s.register k =
      [s.blk.status, s.blk.sampleRate, s.blk.channelCount, s.blk.capacity, s.blk.delayMs, s.blk.wetGain,
        s.blk.delaySamples, s.blk.gainLatched, BitVec.ofNat 32 s.cfg.chMax.toNat, s.cfg.capMax][k]? := by
  rcases Nat.lt_or_ge k 10 with hk | hk
  · rw [BitVec.ofNat_toNat]
    interval_cases k <;> rfl
  · obtain ⟨m, rfl⟩ := Nat.exists_eq_add_of_le' hk
    rfl

/-- Settles O27: R35's table is what READ_REG looks up, and its length is the decoder's bound. -/
theorem readRegAnswersTheRegister : Obligations.ReadRegAnswersTheRegister := by
  refine fun s => ⟨fun k v hv => ?_, fun n w2 hn => ?_⟩
  · rw [← State.register_eq_getElem?] at hv
    have hk : k ≤ 9 := (s.register_isSome k).mp (by simp [hv])
    have hnat : (BitVec.ofNat 32 k).toNat = k := by rw [BitVec.toNat_ofNat]; omega
    refine ⟨fun w2 => ?_, execReadReg_of_register (hnat.symm ▸ hv)⟩
    rw [decode_readReg, hnat, if_pos hk]
  · rw [decode_readReg, if_neg (Nat.not_le.mpr hn)]

/-- Two fields side by side hold the number of the low one and, above it, that of the high one. -/
theorem toNat_append_eq_add {m n : Nat} (x : BitVec m) (y : BitVec n) :
    (x ++ y).toNat = 2 ^ n * x.toNat + y.toNat := by
  rw [BitVec.toNat_append, ← Nat.shiftLeft_add_eq_or_of_lt y.isLt, Nat.shiftLeft_eq, Nat.mul_comm]

theorem Block.status_toNat (b : Block) :
    b.status.toNat = b.errCode.toNat + 16 * b.errMulti.toNat + 32 * (if b.session = .prepared then 1 else 0) +
      64 * b.blockValid.toNat + 128 * b.bypass.toNat := by
  have hprepared : b.preparedFlag.toNat = if b.session = .prepared then 1 else 0 := by
    cases h : b.session <;> simp [Block.preparedFlag, h]
  rw [← hprepared]
  simp only [Block.status, toNat_append_eq_add, BitVec.toNat_ofBool, BitVec.ofNat_eq_ofNat, BitVec.toNat_zero]
  omega

/-- Settles O28: READ_REG 0 answers `STATUS`. -/
theorem statusHoldsItsFields : Obligations.StatusHoldsItsFields :=
  fun s => ⟨s.blk.status, execReadReg_of_register rfl, s.blk.status_toNat⟩

end Sys2Proof.Machine
end

section
/-! PROOFS. Success, said once for all commands: under which conditions a command succeeds, what it then answers and
which block it leaves. The checks of 60_exceptions.md R224 are passed, or the command is no success. -/

namespace Sys2Proof.Machine

/-! ### The checks every command on a channel begins with (60_exceptions.md R224) -/

/-- The port, session and channel checks let a command on channel `ch` pass. -/
structure State.Admits (s : State) (ch : Field8) : Prop where
  port : s.env.port = .a
  session : s.blk.session = .prepared
  channel : ch.toNat < s.blk.channelCount.toNat

/-- The checks that the six commands on a channel have in common, in the order of R224. -/
def requireAdmitted (ch : Field8) (s : State) (k : Result) : Result :=
  requirePortA s <| requireSession s <| requireChannel (channel ch) s k

theorem requirePortA_of {s : State} (h : s.env.port = .a) (k : Result) : requirePortA s k = k := by
  simp [requirePortA, h]

theorem requireSession_of {s : State} (h : s.blk.session = .prepared) (k : Result) : requireSession s k = k := by
  simp [requireSession, h]

theorem requireBlock_of {s : State} (h : s.blk.blockValid = true) (k : Result) : requireBlock s k = k := by
  simp [requireBlock, h]

theorem requireIndex_of {s : State} {i : Nat} (h : i < s.blk.capacity.toNat) (k : Result) : requireIndex i s k = k :=
  if_neg (Nat.not_le.mpr h)

theorem requireAdmitted_of {s : State} {ch : Field8} (h : s.Admits ch) (k : Result) : requireAdmitted ch s k = k := by
  have hch : ¬ s.blk.channelCount.toNat ≤ channel ch := by rw [channel_eq]; exact Nat.not_le.mpr h.channel
  rw [requireAdmitted, requirePortA_of h.port, requireSession_of h.session, requireChannel, if_neg hch]

/-- The common checks reject, or they let the command pass. -/
theorem requireAdmitted_eq (ch : Field8) (s : State) (k : Result) :
    (∃ e, requireAdmitted ch s k = .next (raiseError e s)) ∨ (s.Admits ch ∧ requireAdmitted ch s k = k) := by
  unfold requireAdmitted
  rcases requirePortA_eq s (requireSession s (requireChannel (channel ch) s k)) with ⟨-, he⟩ | ⟨hport, he⟩
  · exact .inl ⟨_, he⟩
  rcases requireSession_eq s (requireChannel (channel ch) s k) with ⟨-, he'⟩ | ⟨hses, he'⟩ <;> rw [he, he']
  · exact .inl ⟨_, rfl⟩
  rcases requireChannel_eq (channel ch) s k with ⟨-, he''⟩ | ⟨hch, he''⟩ <;> rw [he'']
  · exact .inl ⟨_, rfl⟩
  · exact .inr ⟨⟨hport, hses, channel_eq ch ▸ hch⟩, rfl⟩

/-- Every command on a channel begins with the common checks. -/
theorem exec_eq_requireAdmitted {i : Instr} {ch : Field8} (h : channelTaken i = some ch) (s : State) :
    ∃ k, exec i s = requireAdmitted ch s k := by
  cases i <;> cases h <;> exact ⟨_, rfl⟩

/-! ### A rejection is no success -/

theorem raiseError_env_ne (e : ErrorCode) (s : State) (v : Word) : (raiseError e s).env ≠ s.env.answer ⟨0, v⟩ :=
  fun h => e.code_ne_zero (congrArg Response.status (answer_inj h))

theorem RejectedWith.env_ne {es : List ErrorCode} {s t : State} (h : RejectedWith es s t) (v : Word) :
    t.env ≠ s.env.answer ⟨0, v⟩ := by
  obtain ⟨e, -, rfl⟩ := h
  exact raiseError_env_ne e s v

/-- Two successes that leave the same surroundings answer the same value. -/
theorem respond_env_inj {e : Env} {v w : Word} (h : e.answer ⟨0, v⟩ = e.answer ⟨0, w⟩) : v = w :=
  congrArg Response.result (answer_inj h)

/-- A command on a channel that succeeds has passed the common checks. -/
theorem admits_of_exec {i : Instr} {ch : Field8} {s t : State} {v : Word} (hch : channelTaken i = some ch)
    (h : exec i s = .next t) (henv : t.env = s.env.answer ⟨0, v⟩) : s.Admits ch := by
  obtain ⟨k, hk⟩ := exec_eq_requireAdmitted hch s
  rcases requireAdmitted_eq ch s k with ⟨e, he⟩ | ⟨hadm, -⟩
  · rw [hk, he] at h
    cases h
    exact absurd henv (raiseError_env_ne e s v)
  · exact hadm

/-! ### The conditions and the effect of success -/

/-- From state `s`, command `i` succeeds with the response `(0, v)` and leaves the block `b`. -/
inductive Succeeds (s : State) : Instr → Word → Block → Prop
  | nop : Succeeds s .nop 0 s.blk
  | prepare {n : Field8} {cap rate : Word} (hport : s.env.port = .a)
      (hlegal : configOutOfRange s.cfg n cap rate = false) :
      Succeeds s (.prepare n cap rate) 0 (s.blk.startSession (channelCountOperand n) cap rate)
  | release (hport : s.env.port = .a) : Succeeds s .release 0 s.blk.endSession
  | setDelayMs (ms : Word) : Succeeds s (.setDelayMs ms) 0 { s.blk with delayMs := ms }
  | setWetGain (g : Word) : Succeeds s (.setWetGain g) 0 { s.blk with wetGain := g }
  | beginBypass (hport : s.env.port = .a) (hses : s.blk.session = .prepared)
      (hconv : convert s.blk.delayMs s.blk.sampleRate s.blk.capacity = .bypass) :
      Succeeds s .beginBlock 0 (s.blk.setLatch true 0)
  | beginDelay {d : Nat} (hport : s.env.port = .a) (hses : s.blk.session = .prepared)
      (hconv : convert s.blk.delayMs s.blk.sampleRate s.blk.capacity = .delay d) :
      Succeeds s .beginBlock (BitVec.ofNat 32 d) (s.blk.setLatch false (BitVec.ofNat 32 d))
  | processBypassed {ch : Field8} {x : Word} (hadm : s.Admits ch) (hvalid : s.blk.blockValid = true)
      (hbypass : s.blk.bypass = true) : Succeeds s (.processSample ch x) x s.blk
  | processDelayed {ch : Field8} {x w tap : Word} (hadm : s.Admits ch) (hvalid : s.blk.blockValid = true)
      (hbypass : s.blk.bypass = false) (hcur : s.blk.cursor ch.toNat = some w)
      (htap : s.blk.readCell ch.toNat (readCursor w s.blk.delaySamples s.blk.capacity) = some tap)
      (hcell : s.blk.hasCell ch.toNat w.toNat = true) :
      Succeeds s (.processSample ch x) (mix x tap s.blk.gainLatched)
        (Block.setCursor { s.blk with rb := s.blk.rb.write (cellKey ch.toNat w.toNat) x } ch.toNat
          (advanceCursor s.blk.capacity w))
  | storeRead {ch : Field8} {i v : Word} (hadm : s.Admits ch) (hcell : s.blk.readCell ch.toNat i.toNat = some v) :
      Succeeds s (.storeRead ch i) v s.blk
  | storeWrite {ch : Field8} {i v : Word} (hadm : s.Admits ch) (hcell : s.blk.hasCell ch.toNat i.toNat = true) :
      Succeeds s (.storeWrite ch i v) 0 { s.blk with rb := s.blk.rb.write (cellKey ch.toNat i.toNat) v }
  | storeAdvance {ch : Field8} {w : Word} (hadm : s.Admits ch) (hcur : s.blk.cursor ch.toNat = some w) :
      Succeeds s (.storeAdvance ch) w (s.blk.setCursor ch.toNat (advanceCursor s.blk.capacity w))
  | getCursor {ch : Field8} {w : Word} (hadm : s.Admits ch) (hcur : s.blk.cursor ch.toNat = some w) :
      Succeeds s (.getCursor ch) w s.blk
  | getReadCursor {ch : Field8} {w : Word} (hadm : s.Admits ch) (hvalid : s.blk.blockValid = true)
      (hcur : s.blk.cursor ch.toNat = some w) :
      Succeeds s (.getReadCursor ch) (BitVec.ofInt 32 (readCursor w s.blk.delaySamples s.blk.capacity)) s.blk
  | readReg {n v : Word} (hreg : s.register n.toNat = some v) : Succeeds s (.readReg n) v s.blk
  | clearErr (hport : s.env.port = .a) : Succeeds s .clearErr 0 s.blk.clearErrors

theorem Block.readCell_of_hasCell {b : Block} {ch : Nat} {i : Int} (h : b.hasCell ch i = true) :
    b.readCell ch i = some (b.rb.read (cellKey ch i.toNat)) := if_pos h

theorem Block.writeCell_of_hasCell {b : Block} {ch : Nat} {i : Int} (h : b.hasCell ch i = true) (v : Word) :
    b.writeCell ch i v = some { b with rb := b.rb.write (cellKey ch i.toNat) v } := if_pos h

theorem Block.hasCell_of_readCell {b : Block} {ch : Nat} {i : Int} {v : Word} (h : b.readCell ch i = some v) :
    b.hasCell ch i = true := by
  rcases b.readCell_eq ch i with ⟨hcell, -⟩ | ⟨-, hnone⟩
  · exact hcell
  · rw [hnone] at h
    cases h

theorem Block.lt_capacity_of_hasCell {b : Block} {ch i : Nat} (h : b.hasCell ch i = true) : i < b.capacity.toNat := by
  obtain ⟨-, -, -, hi⟩ := (b.hasCell_iff ch i).mp h
  exact_mod_cast hi

/-- The conditions of success are enough: the command succeeds with this response and this block. -/
theorem Succeeds.exec_eq {i : Instr} {s : State} {v : Word} {b : Block} (h : Succeeds s i v b) :
    exec i s = .next (respond v { s with blk := b }) := by
  cases h with
  | nop | setDelayMs | setWetGain => rfl
  | release hport | clearErr hport => exact requirePortA_of hport _
  | prepare hport hlegal => exact (requirePortA_of hport _).trans (if_neg (by simp [hlegal]))
  | beginBypass hport hses hconv | beginDelay hport hses hconv =>
    simp only [exec, execBeginBlock, requirePortA_of hport, requireSession_of hses, hconv]
  | processBypassed hadm hvalid hbypass =>
    exact (requireAdmitted_of hadm _).trans ((requireBlock_of hvalid _).trans (if_pos hbypass))
  | processDelayed hadm hvalid hbypass hcur htap hcell =>
    refine (requireAdmitted_of hadm _).trans ((requireBlock_of hvalid _).trans ?_)
    simp only [channel_eq, hbypass, hcur, htap, Block.writeCell_of_hasCell hcell, orFault_some, Int.toNat_natCast]
    rfl
  | storeRead hadm hcell =>
    have hi := Block.lt_capacity_of_hasCell (Block.hasCell_of_readCell hcell)
    refine (requireAdmitted_of hadm _).trans ((requireIndex_of hi _).trans ?_)
    simp only [channel_eq, indexOperand, hcell, orFault_some]
  | storeWrite hadm hcell =>
    refine (requireAdmitted_of hadm _).trans ((requireIndex_of (Block.lt_capacity_of_hasCell hcell) _).trans ?_)
    simp only [channel_eq, indexOperand, Block.writeCell_of_hasCell hcell, orFault_some, Int.toNat_natCast]
  | storeAdvance hadm hcur | getCursor hadm hcur =>
    refine (requireAdmitted_of hadm _).trans ?_
    simp only [channel_eq, hcur, orFault_some]
  | getReadCursor hadm hvalid hcur =>
    refine (requireAdmitted_of hadm _).trans ((requireBlock_of hvalid _).trans ?_)
    simp only [channel_eq, hcur, orFault_some]
  | readReg hreg => exact execReadReg_of_register hreg

/-- The conditions of success are needed: a command answered with code 0 met them and left the block they give. -/
theorem succeeds_of_exec {i : Instr} {s t : State} {v : Word} (h : exec i s = .next t)
    (henv : t.env = s.env.answer ⟨0, v⟩) : ∃ b, Succeeds s i v b ∧ t = respond v { s with blk := b } := by
  have hadm := fun ch (hch : channelTaken i = some ch) => admits_of_exec hch h henv
  suffices hsucc : ∃ w b, Succeeds s i w b ∧ t = respond w { s with blk := b } by
    obtain ⟨w, b, hb, rfl⟩ := hsucc
    obtain rfl : w = v := respond_env_inj henv
    exact ⟨b, hb, rfl⟩
  cases i with
  | nop => exact ⟨_, _, .nop, execNop_next h⟩
  | setDelayMs ms => exact ⟨_, _, .setDelayMs ms, execSetDelayMs_next h⟩
  | setWetGain g => exact ⟨_, _, .setWetGain g, execSetWetGain_next h⟩
  | prepare n cap rate =>
    rcases execPrepare_next h with hrej | ⟨hport, hlegal, ht⟩
    · exact absurd henv (hrej.env_ne v)
    · exact ⟨_, _, .prepare hport hlegal, ht⟩
  | release =>
    rcases execRelease_next h with hrej | ⟨hport, ht⟩
    · exact absurd henv (hrej.env_ne v)
    · exact ⟨_, _, .release hport, ht⟩
  | beginBlock =>
    rcases execBeginBlock_next h with hrej | ⟨hport, hses, ⟨-, rfl⟩ | ⟨hconv, ht⟩ | ⟨d, hconv, ht⟩⟩
    · exact absurd henv (hrej.env_ne v)
    · exact absurd henv (raiseError_env_ne .delayRange { s with blk := s.blk.clearLatch } v)
    · exact ⟨_, _, .beginBypass hport hses hconv, ht⟩
    · exact ⟨_, _, .beginDelay hport hses hconv, ht⟩
  | processSample ch x =>
    rcases execProcessSample_next h with
      hrej | ⟨-, -, -, hvalid, ⟨hbypass, ht⟩ | ⟨hbypass, w, tap, hcur, htap, hcell, ht⟩⟩
    · exact absurd henv (hrej.env_ne v)
    · exact ⟨_, _, .processBypassed (hadm ch rfl) hvalid hbypass, ht⟩
    · exact ⟨_, _, .processDelayed (hadm ch rfl) hvalid hbypass hcur htap hcell, ht⟩
  | storeRead ch i =>
    rcases execStoreRead_next h with hrej | ⟨-, w, hcell, ht⟩
    · exact absurd henv (hrej.env_ne v)
    · exact ⟨_, _, .storeRead (hadm ch rfl) hcell, ht⟩
  | storeWrite ch i x =>
    rcases execStoreWrite_next h with hrej | ⟨-, hcell, ht⟩
    · exact absurd henv (hrej.env_ne v)
    · exact ⟨_, _, .storeWrite (hadm ch rfl) hcell, ht⟩
  | storeAdvance ch =>
    rcases execStoreAdvance_next h with hrej | ⟨-, -, -, w, hcur, ht⟩
    · exact absurd henv (hrej.env_ne v)
    · exact ⟨_, _, .storeAdvance (hadm ch rfl) hcur, ht⟩
  | getCursor ch =>
    rcases execGetCursor_next h with hrej | ⟨-, w, hcur, ht⟩
    · exact absurd henv (hrej.env_ne v)
    · exact ⟨_, _, .getCursor (hadm ch rfl) hcur, ht⟩
  | getReadCursor ch =>
    rcases execGetReadCursor_next h with hrej | ⟨-, hvalid, w, hcur, ht⟩
    · exact absurd henv (hrej.env_ne v)
    · exact ⟨_, _, .getReadCursor (hadm ch rfl) hvalid hcur, ht⟩
  | readReg n =>
    rcases execReadReg_next h with ⟨-, rfl⟩ | ⟨w, -, hreg, ht⟩
    · exact absurd henv (raiseError_env_ne .illegalCmd s v)
    · exact ⟨_, _, .readReg hreg, ht⟩
  | clearErr =>
    rcases execClearErr_next h with hrej | ⟨hport, ht⟩
    · exact absurd henv (hrej.env_ne v)
    · exact ⟨_, _, .clearErr hport, ht⟩

end Sys2Proof.Machine
end

section
/-! PROOFS. Waiting commands (20_memory.md R69, R70): a step takes at most one command and answers it once on its own
port, no command stops the machine under the invariant, and so every waiting command is answered. -/

namespace Sys2Proof.Machine

/-! ### What a step takes and answers -/

/-- A response as R99 admits it: a code of 0 to 8, and the result 0 beside an error code. -/
def Response.Legal (r : Response) : Prop := r.status.toNat ≤ 8 ∧ (r.status ≠ 0 → r.result = 0)

theorem Response.Legal.of_success (v : Word) : Response.Legal ⟨0, v⟩ := ⟨Nat.zero_le 8, fun h => absurd rfl h⟩

theorem Response.Legal.of_error (e : ErrorCode) : Response.Legal ⟨e.code, 0⟩ := ⟨e.code_toNat_le, fun _ => rfl⟩

/-- Surroundings `e'` are `e` with `c`, the oldest command of one port, answered there by `r`; the other port's commands
and responses are the same. -/
def Env.AnswersOldest (e : Env) (c : Command) (r : Response) (e' : Env) : Prop :=
  (e.pendA = c :: e'.pendA ∧ e'.pendC = e.pendC ∧ e'.respA = e.respA ++ [r] ∧ e'.respC = e.respC) ∨
    (e.pendC = c :: e'.pendC ∧ e'.pendA = e.pendA ∧ e'.respC = e.respC ++ [r] ∧ e'.respA = e.respA)

/-- The state with other decisions of the outside world to come, after `k` free ones. -/
def State.withDecisions (s : State) (ts : List Turn) (k : Nat) : State :=
  { s with env := { s.env with turns := ts, arbTick := k } }

theorem serve_a_nil {s : State} (h : s.env.pendA = []) : serve .a s = .noCommand s := by
  simp [serve, h]

/-- The free arbiter serves one port; until then it touches its own count alone. -/
theorem arbitrate_eq_serve (s : State) : ∃ p k, arbitrate s = serve p (s.withDecisions s.env.turns k) := by
  unfold arbitrate
  split
  · rename_i hA _
    exact ⟨.a, s.env.arbTick, (serve_a_nil hA).symm⟩
  · exact ⟨.a, s.env.arbTick, rfl⟩
  · exact ⟨.c, s.env.arbTick, rfl⟩
  · exact ⟨_, _, rfl⟩

/-- Without a reset, selection serves one port; until then it touches the decisions alone. -/
theorem select_eq_serve {s : State} (h : ∀ ts, s.env.turns ≠ .powerOn :: ts) :
    ∃ p k, select s = serve p (s.withDecisions s.env.turns.tail k) := by
  rcases hturns : s.env.turns with _ | ⟨p | _, ts⟩
  · obtain ⟨p, k, hserve⟩ := arbitrate_eq_serve s
    exact ⟨p, k, by rw [select_of_no_turn hturns, hserve, hturns, List.tail_nil]⟩
  · exact ⟨p, s.env.arbTick, select_of_turn hturns⟩
  · exact absurd hturns (h ts)

/-- A selection that takes no command, without a reset, touches the decisions alone. -/
theorem select_noCommand_frame {s t : State} (hreset : ∀ ts, s.env.turns ≠ .powerOn :: ts)
    (h : select s = .noCommand t) : ∃ k, t = s.withDecisions s.env.turns.tail k := by
  obtain ⟨p, k, hserve⟩ := select_eq_serve hreset
  rw [hserve] at h
  rcases serve_eq p (s.withDecisions s.env.turns.tail k) with he | ⟨-, _, _, -, he⟩ | ⟨-, _, _, -, he⟩ <;>
    rw [he] at h <;> cases h
  exact ⟨k, rfl⟩

/-- The command a selection takes is answered on the port it was taken from, whatever the response. -/
theorem select_command_answersOldest {s t : State} {c : Command} (h : select s = .command c t) (r : Response) :
    s.env.AnswersOldest c r (t.env.answer r) ∧ t.env.turns = s.env.turns.tail := by
  have hreset : ∀ ts, s.env.turns ≠ .powerOn :: ts := by
    intro ts hturns
    simp [select, hturns] at h
  obtain ⟨p, k, hserve⟩ := select_eq_serve hreset
  rw [hserve] at h
  rcases serve_eq p (s.withDecisions s.env.turns.tail k) with
    he | ⟨-, _, rest, hpend, he⟩ | ⟨-, _, rest, hpend, he⟩ <;> rw [he] at h <;> cases h
  · exact ⟨.inl ⟨hpend, rfl, rfl, rfl⟩, rfl⟩
  · exact ⟨.inr ⟨hpend, rfl, rfl, rfl⟩, rfl⟩

/-- Every command that answers a next state gives one response. -/
theorem exec_answer {i : Instr} {s t : State} (h : exec i s = .next t) : ∃ r, r.Legal ∧ t.env = s.env.answer r := by
  rcases exec_next h with ⟨e, -, rfl⟩ | ⟨-, rfl⟩ | ⟨v, b, rfl, -, -⟩
  · exact ⟨_, .of_error e, rfl⟩
  · exact ⟨_, .of_error .delayRange, rfl⟩
  · exact ⟨_, .of_success v, rfl⟩

/-- A step that takes a command answers it once on its own port (R69, R70, 30_encoding.md R99). -/
theorem step_answersOldest {s t u : State} {c : Command} (hsel : select s = .command c u) (h : step s = .next t) :
    ∃ r, r.Legal ∧ s.env.AnswersOldest c r t.env ∧ t.env.turns = s.env.turns.tail := by
  suffices hanswer : ∃ r, r.Legal ∧ t.env = u.env.answer r by
    obtain ⟨r, hlegal, henv⟩ := hanswer
    obtain ⟨holdest, hturns⟩ := select_command_answersOldest hsel r
    rw [henv]
    exact ⟨r, hlegal, holdest, hturns⟩
  rcases step_eq s with ⟨u', hsel', -⟩ | ⟨c', u', why, hsel', -, hstep⟩ | ⟨c', u', i, hsel', -, hstep⟩ <;>
    rw [hsel] at hsel' <;> cases hsel' <;> rw [hstep] at h
  · rw [next_inj h]
    exact ⟨_, .of_error .illegalCmd, rfl⟩
  · exact exec_answer h

/-- Settles O12: without a reset a selection serves one port, where it takes the oldest command or none. -/
theorem eachStepAnswersAtMostOneCommand : Obligations.EachStepAnswersAtMostOneCommand := by
  intro s t hreset h
  cases hsel : select s with
  | noCommand u =>
    obtain ⟨k, rfl⟩ := select_noCommand_frame hreset hsel
    rw [step, fetch, hsel] at h
    cases h
    exact .inl ⟨rfl, rfl, rfl, rfl, rfl⟩
  | command c u =>
    obtain ⟨r, ⟨hcode, hresult⟩, holdest, -⟩ := step_answersOldest hsel h
    exact .inr ⟨c, r, hcode, hresult, holdest⟩

/-! ### No command stops the machine under the invariant (60_exceptions.md R220) -/

/-- Under the invariant every channel of the session has a cursor below the capacity (10_state.md R23, R24). -/
theorem Block.CursorInv.exists_cursor {b : Block} (h : b.CursorInv) {ch : Nat} (hch : ch < b.channelCount.toNat) :
    ∃ w, b.cursor ch = some w ∧ w.toNat < b.capacity.toNat := by
  obtain ⟨hlen, hbelow⟩ := h
  have hlt : ch < b.wcur.length := hlen ▸ hch
  exact ⟨b.wcur[ch], List.getElem?_eq_getElem hlt, hbelow _ (List.mem_map_of_mem (List.getElem_mem hlt))⟩

/-- Under the invariant a latched delay reads inside the buffer (42_engine.md R152). -/
theorem readCursor_bounds {w d cap : Word} (hw : w.toNat < cap.toNat) (hd : 1 ≤ d.toNat) (hd' : d.toNat ≤ cap.toNat) :
    0 ≤ readCursor w d cap ∧ readCursor w d cap < cap.toNat := by
  rw [readCursor]
  omega

theorem State.Admits.hasCell {s : State} {ch : Field8} (h : s.Admits ch) {j : Int} (hj : 0 ≤ j)
    (hcap : j < s.blk.capacity.toNat) : s.blk.hasCell ch.toNat j = true :=
  (s.blk.hasCell_iff _ _).mpr ⟨h.session, h.channel, hj, hcap⟩

/-- A command that follows the common checks answers a next state if it does so in an admitted state. -/
theorem requireAdmitted_progress {ch : Field8} {s : State} {k : Result} (h : s.Admits ch → ∃ t, k = .next t) :
    ∃ t, requireAdmitted ch s k = .next t := by
  rcases requireAdmitted_eq ch s k with ⟨e, he⟩ | ⟨hadm, he⟩ <;> rw [he]
  · exact ⟨_, rfl⟩
  · exact h hadm

theorem requirePortA_progress {s : State} {k : Result} (h : ∃ t, k = .next t) : ∃ t, requirePortA s k = .next t := by
  rcases requirePortA_eq s k with ⟨-, he⟩ | ⟨-, he⟩ <;> rw [he]
  · exact ⟨_, rfl⟩
  · exact h

theorem requireSession_progress {s : State} {k : Result} (h : ∃ t, k = .next t) :
    ∃ t, requireSession s k = .next t := by
  rcases requireSession_eq s k with ⟨-, he⟩ | ⟨-, he⟩ <;> rw [he]
  · exact ⟨_, rfl⟩
  · exact h

theorem requireBlock_progress {s : State} {k : Result} (h : s.blk.blockValid = true → ∃ t, k = .next t) :
    ∃ t, requireBlock s k = .next t := by
  rcases requireBlock_eq s k with ⟨-, he⟩ | ⟨hvalid, he⟩ <;> rw [he]
  · exact ⟨_, rfl⟩
  · exact h hvalid

theorem requireIndex_progress {i : Nat} {s : State} {k : Result}
    (h : i < s.blk.capacity.toNat → ∃ t, k = .next t) : ∃ t, requireIndex i s k = .next t := by
  rcases requireIndex_eq i s k with ⟨-, he⟩ | ⟨hi, he⟩ <;> rw [he]
  · exact ⟨_, rfl⟩
  · exact h hi

theorem orFault_progress {α : Type} {o : Option α} {f : Fault} {k : α → Result} {x : α} (hx : o = some x)
    (h : ∃ t, k x = .next t) : ∃ t, orFault o f k = .next t := by
  rw [hx, orFault_some]
  exact h

/-- Under the invariant PROCESS_SAMPLE finds its cursor, its tap and the cell it writes. -/
theorem execProcessSample_progress (ch : Field8) (x : Word) {s : State} (hcursor : s.blk.CursorInv)
    (hlatch : s.blk.LatchInv) : ∃ t, execProcessSample ch x s = .next t := by
  refine requireAdmitted_progress fun hadm => requireBlock_progress fun hvalid => ?_
  obtain ⟨w, hcur, hw⟩ := hcursor.exists_cursor hadm.channel
  obtain ⟨-, -, hdelay, -⟩ := hlatch
  cases hbypass : s.blk.bypass with
  | true => exact ⟨_, rfl⟩
  | false =>
    obtain ⟨hone, hcap⟩ := hdelay hvalid hbypass
    obtain ⟨hnonneg, hlt⟩ := readCursor_bounds hw hone hcap
    rw [channel_eq]
    refine orFault_progress hcur (orFault_progress (Block.readCell_of_hasCell (hadm.hasCell hnonneg hlt)) ?_)
    exact orFault_progress (Block.writeCell_of_hasCell (hadm.hasCell (Int.natCast_nonneg _) (by exact_mod_cast hw)) x)
      ⟨_, rfl⟩

/-- Under the invariant every command answers a next state. -/
theorem exec_progress (i : Instr) {s : State} (hinv : s.Inv) : ∃ t, exec i s = .next t := by
  obtain ⟨-, -, hcursor, hlatch, -⟩ := hinv
  have hcell {ch : Field8} {j : Word} (hadm : s.Admits ch) (hj : indexOperand j < s.blk.capacity.toNat) :
      s.blk.hasCell (channel ch) (indexOperand j) = true := by
    rw [channel_eq]
    exact hadm.hasCell (Int.natCast_nonneg _) (by exact_mod_cast hj)
  have hcur {ch : Field8} (hadm : s.Admits ch) : ∃ w, s.blk.cursor (channel ch) = some w := by
    obtain ⟨w, hw, -⟩ := hcursor.exists_cursor hadm.channel
    exact ⟨w, channel_eq ch ▸ hw⟩
  cases i with
  | nop | setDelayMs | setWetGain => exact ⟨_, rfl⟩
  | release | clearErr => exact requirePortA_progress ⟨_, rfl⟩
  | prepare n cap rate =>
    refine requirePortA_progress ?_
    split <;> exact ⟨_, rfl⟩
  | beginBlock =>
    refine requirePortA_progress (requireSession_progress ?_)
    split <;> exact ⟨_, rfl⟩
  | readReg n =>
    rw [exec, execReadReg]
    split <;> exact ⟨_, rfl⟩
  | processSample ch x => exact execProcessSample_progress ch x hcursor hlatch
  | storeRead ch j =>
    refine requireAdmitted_progress fun hadm => requireIndex_progress fun hj => ?_
    exact orFault_progress (Block.readCell_of_hasCell (hcell hadm hj)) ⟨_, rfl⟩
  | storeWrite ch j v =>
    refine requireAdmitted_progress fun hadm => requireIndex_progress fun hj => ?_
    exact orFault_progress (Block.writeCell_of_hasCell (hcell hadm hj) v) ⟨_, rfl⟩
  | storeAdvance ch | getCursor ch =>
    refine requireAdmitted_progress fun hadm => ?_
    obtain ⟨w, hw⟩ := hcur hadm
    exact orFault_progress hw ⟨_, rfl⟩
  | getReadCursor ch =>
    refine requireAdmitted_progress fun hadm => requireBlock_progress fun _ => ?_
    obtain ⟨w, hw⟩ := hcur hadm
    exact orFault_progress hw ⟨_, rfl⟩

/-- Under the invariant a step answers a next state. -/
theorem step_progress {s : State} (hinv : s.Inv) : ∃ t, step s = .next t := by
  rcases step_eq s with ⟨t, -, hstep⟩ | ⟨c, u, why, -, -, hstep⟩ | ⟨c, u, i, hsel, -, hstep⟩ <;> rw [hstep]
  · exact ⟨t, rfl⟩
  · exact ⟨_, rfl⟩
  · exact exec_progress i (select_command_keeps_inv hsel hinv)

/-! ### Every waiting command is answered (70_reset_and_hazards.md R259, R260) -/

/-- The free arbiter takes a command as long as one waits (R69). -/
theorem select_of_waiting {s : State} (hturns : s.env.turns = []) (hwait : ¬ s.atRest) :
    ∃ c t, select s = .command c t := by
  rw [select_of_no_turn hturns, arbitrate]
  rcases hA : s.env.pendA with _ | ⟨a, as⟩ <;> rcases hC : s.env.pendC with _ | ⟨c, cs⟩
  · exact absurd ⟨hA, hC⟩ hwait
  · exact ⟨_, _, serve_c_cons hC⟩
  · exact ⟨_, _, serve_a_cons hA⟩
  · cases Config.arb s.env.arbTick with
    | a => exact ⟨_, _, serve_a_cons hA⟩
    | c => exact ⟨_, _, serve_c_cons hC⟩

/-- With a command waiting and the arbiter free, a step keeps the invariant and answers one command. -/
theorem step_of_waiting {s : State} (hinv : s.Inv) (hturns : s.env.turns = []) (hwait : ¬ s.atRest) :
    ∃ t c r, step s = .next t ∧ t.Inv ∧ t.env.turns = [] ∧ s.env.AnswersOldest c r t.env := by
  obtain ⟨t, ht⟩ := step_progress hinv
  obtain ⟨c, u, hsel⟩ := select_of_waiting hturns hwait
  obtain ⟨r, -, holdest, hturns'⟩ := step_answersOldest hsel ht
  exact ⟨t, c, r, ht, everyStepKeepsTheInvariant s t hinv ht, by rw [hturns', hturns, List.tail_nil], holdest⟩

/-- Answering one command takes one off those that wait, and each port's waiting commands and responses together stay
as many. -/
theorem Env.AnswersOldest.lengths {e e' : Env} {c : Command} {r : Response} (h : e.AnswersOldest c r e') :
    e'.pendA.length + e'.pendC.length + 1 = e.pendA.length + e.pendC.length ∧
      e'.respA.length + e'.pendA.length = e.respA.length + e.pendA.length ∧
      e'.respC.length + e'.pendC.length = e.respC.length + e.pendC.length := by
  rcases h with ⟨hpend, hother, hresp, hother'⟩ | ⟨hpend, hother, hresp, hother'⟩ <;>
    rw [hpend, hother, hresp, hother', List.length_cons, List.length_append, List.length_singleton] <;> omega

theorem core_run_succ {s t : State} (h : step s = .next t) (k : Nat) :
    Host.Core.run core (k + 1) s = Host.Core.run core k t := by
  have hcore : core.step s = .next t := h
  simp only [Host.Core.run, hcore]

/-- Settles O13, by induction on the number of commands that wait. -/
theorem everyWaitingCommandIsAnswered : Obligations.EveryWaitingCommandIsAnswered := by
  intro s
  induction hn : s.env.pendA.length + s.env.pendC.length generalizing s with
  | zero =>
    intro hinv _
    have hA : s.env.pendA = [] := List.eq_nil_of_length_eq_zero (by omega)
    have hC : s.env.pendC = [] := List.eq_nil_of_length_eq_zero (by omega)
    exact ⟨s, rfl, ⟨hA, hC⟩, hinv, by simp [hA], by simp [hC]⟩
  | succ n ih =>
    intro hinv hturns
    have hwait : ¬ s.atRest := by
      rintro ⟨hA, hC⟩
      simp [hA, hC] at hn
    obtain ⟨t, c, r, hstep, htinv, htturns, holdest⟩ := step_of_waiting hinv hturns hwait
    obtain ⟨hpend, hrespA, hrespC⟩ := holdest.lengths
    obtain ⟨u, hrun, hrest, huinv, hA, hC⟩ := ih t (by omega) htinv htturns
    exact ⟨u, (core_run_succ hstep n).trans hrun, hrest, huinv, by omega, by omega⟩

end Sys2Proof.Machine
end

section
/-! PROOFS. Commands on a channel (20_memory.md R66, R67, R76): what they change is an update of their own channel,
it depends on that channel alone, and updates of different channels commute. -/

namespace Sys2Proof.Machine

/-! ### Writes to storage -/

theorem Memory.read_write {m : Memory} (h : Memory.wf m) (k : Nat) (v : Word) (k' : Nat) :
    Memory.read (Memory.write m k v) k' = if k' = k then v else Memory.read m k' := by
  split
  · subst_vars
    exact Memory.read_write_same _ _ h
  · exact Memory.read_write_other _ ‹_›

/-- A write repeated changes nothing more. -/
theorem Memory.write_write_self {m : Memory} (h : Memory.wf m) (k : Nat) (v : Word) :
    Memory.write (Memory.write m k v) k v = Memory.write m k v := by
  have hw := Memory.wf_write k v h
  refine Memory.eq_of_read (Memory.wf_write k v hw) hw fun j => ?_
  rw [Memory.read_write hw, Memory.read_write h]
  split <;> rfl

/-- Writes to different keys commute: both orders read alike at every key, and the canonical form is unique. -/
theorem Memory.write_comm {m : Memory} (h : Memory.wf m) {k k' : Nat} (hne : k ≠ k') (v v' : Word) :
    Memory.write (Memory.write m k v) k' v' = Memory.write (Memory.write m k' v') k v := by
  have hw := Memory.wf_write k v h
  have hw' := Memory.wf_write k' v' h
  refine Memory.eq_of_read (Memory.wf_write k' v' hw) (Memory.wf_write k v hw') fun j => ?_
  rw [Memory.read_write hw, Memory.read_write hw', Memory.read_write h, Memory.read_write h]
  split_ifs with hj' hj
  · exact absurd (hj.symm.trans hj') hne
  all_goals rfl

/-! ### Updates of one channel -/

/-- What a command writes in its channel: the value of one cell and the cursor, each if at all. -/
structure ChannelUpdate where
  cell : Option (Word × Word) := none
  cursor : Option Word := none

/-- The block with channel `ch` updated. -/
def Block.update (b : Block) (ch : Nat) (e : ChannelUpdate) : Block :=
  { b with
    rb := match e.cell with
      | none => b.rb
      | some (i, v) => b.rb.write (cellKey ch i.toNat) v
    wcur := match e.cursor with
      | none => b.wcur
      | some w => b.wcur.set ch w }

theorem cellKey_ne {ch ch' i i' : Nat} (hi : i < 2 ^ 32) (hi' : i' < 2 ^ 32) (hch : ch ≠ ch') :
    cellKey ch i ≠ cellKey ch' i' := fun h => hch (cellKey_inj hi hi' h).1

/-- No cell of another channel is touched (R67). -/
theorem Block.update_readCell_other {b : Block} {ch c : Nat} (h : ch ≠ c) (e : ChannelUpdate) (j : Int) :
    (b.update c e).readCell ch j = b.readCell ch j := by
  have hread (hj : j.toNat < 2 ^ 32) :
      (b.update c e).rb.read (cellKey ch j.toNat) = b.rb.read (cellKey ch j.toNat) := by
    obtain ⟨_ | ⟨i, v⟩, w⟩ := e
    · rfl
    · exact Memory.read_write_other v (cellKey_ne hj i.isLt h)
  have hcell : (b.update c e).hasCell ch j = b.hasCell ch j := rfl
  unfold Block.readCell
  rw [hcell]
  split
  · rename_i hhas
    obtain ⟨-, -, hnonneg, hcap⟩ := (b.hasCell_iff ch j).mp hhas
    have := b.capacity.isLt
    rw [hread (by omega)]
  · rfl

/-- No cursor of another channel is touched (R67). -/
theorem Block.update_cursor_other {b : Block} {ch c : Nat} (h : ch ≠ c) (e : ChannelUpdate) :
    (b.update c e).cursor ch = b.cursor ch := by
  obtain ⟨cell, _ | w⟩ := e
  · rfl
  · exact List.getElem?_set_ne h.symm

/-- Updates of different channels commute. -/
theorem Block.update_comm {b : Block} (hwf : Memory.wf b.rb) {c c' : Nat} (h : c ≠ c') (e e' : ChannelUpdate) :
    (b.update c e).update c' e' = (b.update c' e').update c e := by
  have hrb : ((b.update c e).update c' e').rb = ((b.update c' e').update c e).rb := by
    obtain ⟨_ | ⟨i, v⟩, w⟩ := e <;> obtain ⟨_ | ⟨i', v'⟩, w'⟩ := e'
    case some.some => exact Memory.write_comm hwf (cellKey_ne i.isLt i'.isLt h) v v'
    all_goals rfl
  have hwcur : ((b.update c e).update c' e').wcur = ((b.update c' e').update c e).wcur := by
    obtain ⟨cell, _ | w⟩ := e <;> obtain ⟨cell', _ | w'⟩ := e'
    case some.some => exact List.set_comm w w' h
    all_goals rfl
  unfold Block.update at *
  simp only [Block.mk.injEq, true_and, and_true]
  exact ⟨hrb, hwcur⟩

/-! ### A channel's view of the machine -/

theorem State.alikeFor.symm {ch : Field8} {s t : State} (h : State.alikeFor ch s t) : State.alikeFor ch t s := by
  obtain ⟨h1, h2, h3, h4, h5, h6, h7, h8, h9, h10, h11, h12⟩ := h
  exact ⟨h1.symm, h2.symm, h3.symm, h4.symm, h5.symm, h6.symm, h7.symm, h8.symm, h9.symm, h10.symm, h11.symm,
    fun j => (h12 j).symm⟩

/-- A channel does not see the update of another channel. -/
theorem State.alikeFor_update {ch c : Field8} (h : ch ≠ c) (s : State) (v : Word) (e : ChannelUpdate) :
    State.alikeFor ch s (respond v { s with blk := s.blk.update c.toNat e }) := by
  have hne : ch.toNat ≠ c.toNat := fun heq => h (BitVec.eq_of_toNat_eq heq)
  exact ⟨rfl, rfl, rfl, rfl, rfl, rfl, rfl, rfl, rfl, rfl, (Block.update_cursor_other hne e).symm,
    fun j => (Block.update_readCell_other hne e j).symm⟩

section
variable {ch : Field8} {s t : State} (h : State.alikeFor ch s t)
include h

theorem State.alikeFor.capacity : t.blk.capacity = s.blk.capacity := by
  obtain ⟨-, -, -, -, -, hcapacity, -⟩ := h
  exact hcapacity.symm

theorem State.alikeFor.blockValid : t.blk.blockValid = s.blk.blockValid := by
  obtain ⟨-, -, -, -, -, -, hblockValid, -⟩ := h
  exact hblockValid.symm

theorem State.alikeFor.bypass : t.blk.bypass = s.blk.bypass := by
  obtain ⟨-, -, -, -, -, -, -, hbypass, -⟩ := h
  exact hbypass.symm

theorem State.alikeFor.delaySamples : t.blk.delaySamples = s.blk.delaySamples := by
  obtain ⟨-, -, -, -, -, -, -, -, hdelaySamples, -⟩ := h
  exact hdelaySamples.symm

theorem State.alikeFor.gainLatched : t.blk.gainLatched = s.blk.gainLatched := by
  obtain ⟨-, -, -, -, -, -, -, -, -, hgainLatched, -⟩ := h
  exact hgainLatched.symm

theorem State.alikeFor.cursor : t.blk.cursor ch.toNat = s.blk.cursor ch.toNat := by
  obtain ⟨-, -, -, -, -, -, -, -, -, -, hcursor, -⟩ := h
  exact hcursor.symm

theorem State.alikeFor.readCell (j : Int) : t.blk.readCell ch.toNat j = s.blk.readCell ch.toNat j := by
  obtain ⟨-, -, -, -, -, -, -, -, -, -, -, hread⟩ := h
  exact (hread j).symm

theorem State.alikeFor.hasCell (c : Nat) (j : Int) : t.blk.hasCell c j = s.blk.hasCell c j := by
  obtain ⟨-, -, hses, -, hcount, hcap, -⟩ := h
  simp only [Block.hasCell, hses, hcount, hcap]

theorem State.alikeFor.admits (hadm : s.Admits ch) : t.Admits ch := by
  obtain ⟨-, hport, hses, -, hcount, -⟩ := h
  obtain ⟨hport', hses', hch⟩ := hadm
  exact ⟨hport ▸ hport', hses ▸ hses', hcount ▸ hch⟩

end

/-- A command on a channel that succeeds updates its channel, and it succeeds with the same response and the same
update in every state that looks alike to the channel (R67, 42_engine.md R161). -/
theorem Succeeds.exists_update {i : Instr} {ch : Field8} {s : State} {v : Word} {b : Block} (h : Succeeds s i v b)
    (hch : channelTaken i = some ch) :
    ∃ e, b = s.blk.update ch.toNat e ∧
      ∀ s', State.alikeFor ch s s' → Succeeds s' i v (s'.blk.update ch.toNat e) := by
  cases h with
  | nop | prepare | release | setDelayMs | setWetGain | beginBypass | beginDelay | readReg | clearErr => cases hch
  | processBypassed hadm hvalid hbypass =>
    cases hch
    exact ⟨{}, rfl, fun s' hs =>
      .processBypassed (hs.admits hadm) (hs.blockValid.trans hvalid) (hs.bypass.trans hbypass)⟩
  | @processDelayed _ x w tap hadm hvalid hbypass hcur htap hcell =>
    cases hch
    refine ⟨{ cell := some (w, x), cursor := some (advanceCursor s.blk.capacity w) }, rfl, fun s' hs => ?_⟩
    rw [← hs.readCell, ← hs.delaySamples, ← hs.capacity] at htap
    rw [← hs.capacity, ← hs.gainLatched]
    exact .processDelayed (hs.admits hadm) (hs.blockValid.trans hvalid) (hs.bypass.trans hbypass)
      (hs.cursor.trans hcur) htap ((hs.hasCell _ _).trans hcell)
  | storeRead hadm hcell =>
    cases hch
    exact ⟨{}, rfl, fun s' hs => .storeRead (hs.admits hadm) ((hs.readCell _).trans hcell)⟩
  | @storeWrite _ i x hadm hcell =>
    cases hch
    exact ⟨{ cell := some (i, x) }, rfl, fun s' hs => .storeWrite (hs.admits hadm) ((hs.hasCell _ _).trans hcell)⟩
  | storeAdvance hadm hcur =>
    cases hch
    refine ⟨{ cursor := some (advanceCursor s.blk.capacity v) }, rfl, fun s' hs => ?_⟩
    rw [← hs.capacity]
    exact .storeAdvance (hs.admits hadm) (hs.cursor.trans hcur)
  | getCursor hadm hcur =>
    cases hch
    exact ⟨{}, rfl, fun s' hs => .getCursor (hs.admits hadm) (hs.cursor.trans hcur)⟩
  | getReadCursor hadm hvalid hcur =>
    cases hch
    refine ⟨{}, rfl, fun s' hs => ?_⟩
    rw [← hs.delaySamples, ← hs.capacity]
    exact .getReadCursor (hs.admits hadm) (hs.blockValid.trans hvalid) (hs.cursor.trans hcur)

/-! ### Commands on a channel -/

/-- A command on a channel that succeeds does so by an update of its channel, and in every state alike to the channel
by the same update. -/
theorem exec_exists_update {i : Instr} {ch : Field8} {s t : State} {v : Word} (hch : channelTaken i = some ch)
    (h : exec i s = .next t) (henv : t.env = s.env.answer ⟨0, v⟩) :
    ∃ e, t = respond v { s with blk := s.blk.update ch.toNat e } ∧
      ∀ s', State.alikeFor ch s s' → exec i s' = .next (respond v { s' with blk := s'.blk.update ch.toNat e }) := by
  obtain ⟨b, hsucc, rfl⟩ := succeeds_of_exec h henv
  obtain ⟨e, rfl, hlocal⟩ := hsucc.exists_update hch
  exact ⟨e, rfl, fun s' hs => (hlocal s' hs).exec_eq⟩

/-- A command on a channel records an error or updates its channel. -/
theorem exec_blk_of_channelTaken {i : Instr} {ch : Field8} {s t : State} (hch : channelTaken i = some ch)
    (h : exec i s = .next t) :
    (∃ e, t.blk = s.blk.recordError e) ∨ ∃ e, t.blk = s.blk.update ch.toNat e := by
  rcases exec_next h with ⟨e, -, rfl⟩ | ⟨rfl, -⟩ | ⟨v, b, rfl, -, -⟩
  · exact .inl ⟨e, rfl⟩
  · cases hch
  · obtain ⟨e, ht, -⟩ := exec_exists_update hch h rfl
    exact .inr ⟨e, congrArg State.blk ht⟩

/-- Settles O47: an error recorded touches no channel, and an update no other one. -/
theorem aCommandTouchesOnlyItsChannel : Obligations.ACommandTouchesOnlyItsChannel := by
  intro i s t c hc h ch hne
  rcases exec_blk_of_channelTaken hc h with ⟨e, he⟩ | ⟨e, he⟩ <;> rw [he]
  · exact ⟨rfl, Block.readCell_congr rfl rfl rfl rfl ch⟩
  · exact ⟨Block.update_cursor_other hne e, Block.update_readCell_other hne e⟩

/-- Settles O48: neither command sees the other's update, so each succeeds as before in the other order, and the two
updates commute on canonical storage. -/
theorem commandsOnDifferentChannelsCommute : Obligations.CommandsOnDifferentChannelsCommute := by
  rintro i j ci cj s t u vi vj ⟨-, ⟨hwf, -⟩, -⟩ - hci hcj hne hexec henv hexec' henv'
  obtain ⟨ei, rfl, hi⟩ := exec_exists_update hci hexec henv
  obtain ⟨ej, rfl, hj⟩ := exec_exists_update hcj hexec' henv'
  have hne' : cj.toNat ≠ ci.toNat := fun heq => hne (BitVec.eq_of_toNat_eq heq).symm
  have hfirst := hj s (State.alikeFor_update hne.symm s vi ei).symm
  have hsecond := hi _ (State.alikeFor_update hne s vj ej)
  exact ⟨_, _, hfirst, rfl, hsecond, rfl, Block.update_comm hwf hne' ej ei, rfl⟩

/-! ### Commands repeated (20_memory.md R66) -/

/-- The read commands leave the block as it is. -/
theorem Succeeds.blk_of_read {i : Instr} {s : State} {v : Word} {b : Block} (h : Succeeds s i v b)
    (hread : i = .nop ∨ (∃ ch j, i = .storeRead ch j) ∨ (∃ ch, i = .getCursor ch) ∨ (∃ ch, i = .getReadCursor ch) ∨
      ∃ n, i = .readReg n) : b = s.blk := by
  rcases hread with rfl | ⟨ch, j, rfl⟩ | ⟨ch, rfl⟩ | ⟨ch, rfl⟩ | ⟨n, rfl⟩ <;> cases h <;> rfl

/-- A command that moves no cursor meets the conditions of success again in the state it leaves, and then leaves the
same block. -/
theorem Succeeds.again {i : Instr} {s : State} {v : Word} {b : Block} (h : Succeeds s i v b)
    (hwf : Memory.wf s.blk.rb) (hprocess : ∀ ch x, i ≠ .processSample ch x) (hadvance : ∀ ch, i ≠ .storeAdvance ch) :
    Succeeds (respond v { s with blk := b }) i v b := by
  cases h with
  | nop => exact .nop
  | prepare hport hlegal => exact .prepare hport hlegal
  | release hport => exact .release hport
  | setDelayMs ms => exact .setDelayMs ms
  | setWetGain g => exact .setWetGain g
  | beginBypass hport hses hconv => exact .beginBypass hport hses hconv
  | beginDelay hport hses hconv => exact .beginDelay hport hses hconv
  | processBypassed | processDelayed => exact absurd rfl (hprocess _ _)
  | storeRead hadm hcell => exact .storeRead ⟨hadm.port, hadm.session, hadm.channel⟩ hcell
  | @storeWrite ch j x hadm hcell =>
    have hagain := Succeeds.storeWrite (v := x)
      (s := respond 0 { s with blk := { s.blk with rb := s.blk.rb.write (cellKey ch.toNat j.toNat) x } })
      ⟨hadm.port, hadm.session, hadm.channel⟩ hcell
    rwa [respond_blk, Memory.write_write_self hwf] at hagain
  | storeAdvance => exact absurd rfl (hadvance _)
  | getCursor hadm hcur => exact .getCursor ⟨hadm.port, hadm.session, hadm.channel⟩ hcur
  | getReadCursor hadm hvalid hcur => exact .getReadCursor ⟨hadm.port, hadm.session, hadm.channel⟩ hvalid hcur
  | readReg hreg => exact .readReg hreg
  | clearErr hport => exact .clearErr hport

/-- Settles O50: both parts are properties of the conditions of success. -/
theorem repeatingASetCommandChangesNothingMore : Obligations.RepeatingASetCommandChangesNothingMore := by
  rintro i s t v ⟨-, ⟨hwf, -⟩, -⟩ h henv
  obtain ⟨b, hsucc, rfl⟩ := succeeds_of_exec h henv
  refine ⟨hsucc.blk_of_read, fun hprocess hadvance => ?_⟩
  exact ⟨_, (hsucc.again hwf hprocess hadvance).exec_eq, rfl, rfl⟩

end Sys2Proof.Machine
end

section
/-! PROOFS. The encoding (spec/30_encoding.md): what the encoder writes for a decoded command, when words are a
command, and the mask-and-match table, which has one row per opcode. -/

namespace Sys2Proof

/-! ### The header word and its fields (R91) -/

theorem append_fields (w0 : Word) : opField w0 ++ chField w0 ++ rsvField w0 = w0 := by
  apply BitVec.eq_of_toNat_eq
  simp only [Machine.toNat_append_eq_add, opField, chField, rsvField, BitVec.extractLsb'_toNat,
    Nat.shiftRight_eq_div_pow]
  omega

theorem header_of_rsvField {w0 : Word} (h : rsvField w0 = 0) : header (opField w0) (chField w0) = w0 := by
  rw [header, ← h, append_fields]

/-- Fields side by side are compared one by one. -/
theorem append_eq_append_iff {m n : Nat} {x x' : BitVec m} {y y' : BitVec n} :
    x ++ y = x' ++ y' ↔ x = x' ∧ y = y' := by
  refine ⟨fun h => ⟨?_, ?_⟩, fun ⟨hx, hy⟩ => by rw [hx, hy]⟩
  · rw [← BitVec.extractLsb'_append_eq_left (a := x) (b := y), h, BitVec.extractLsb'_append_eq_left]
  · rw [← BitVec.extractLsb'_append_eq_right (a := x) (b := y), h, BitVec.extractLsb'_append_eq_right]

theorem chMustBeZero_iff (op : Field8) :
    chMustBeZero op = true ↔ op.toNat ∈ [0x00, 0x02, 0x03, 0x04, 0x05, 0x0C, 0x0D] := by
  simp [chMustBeZero, ← BitVec.toNat_inj, or_assoc]

/-! ### The command of an opcode (R93 to R97) -/

theorem exists_instrOf {op : Field8} (h : op.toNat ≤ 0x0D) (ch : Field8) (w1 w2 : Word) :
    ∃ i, instrOf op ch w1 w2 = some i := by
  rw [← Option.ne_none_iff_exists', ne_eq, instrOf_none]
  exact Nat.not_lt.mpr h

/-- The encoder writes the words the command uses, and 0 in an ignored word and in a `CH` that must be 0. -/
theorem encode_of_instrOf {op ch : Field8} {w1 w2 : Word} {i : Instr} (h : instrOf op ch w1 w2 = some i) :
    encode i = ⟨header op (if chMustBeZero op then 0 else ch), if usesW1 i then w1 else 0,
      if usesW2 i then w2 else 0⟩ := by
  obtain ⟨rfl, -⟩ := instrOf_some h
  unfold instrOf at h
  split at h <;> simp only [Option.some.injEq, reduceCtorEq] at h <;> subst h <;> rfl

/-- READ_REG's register number is the one operand that can be ill-formed (R96 (c)). -/
theorem isWellFormed_of_instrOf {op ch : Field8} {w1 w2 : Word} {i : Instr} (h : instrOf op ch w1 w2 = some i) :
    i.isWellFormed = true ↔ (op.toNat = 0x0C → w1.toNat ≤ 9) := by
  unfold instrOf at h
  split at h <;> simp only [Option.some.injEq, reduceCtorEq] at h <;> subst h <;> simp_all [Instr.isWellFormed]

/-- The opcode and channel field the encoder writes give the command back, with the words it writes. -/
theorem instrOf_encode (i : Instr) :
    instrOf (opField (encode i).w0) (chField (encode i).w0) (encode i).w1 (encode i).w2 = some i := by
  cases i <;> simp [encode, Laws.opField_header, Laws.chField_header, instrOf]

theorem opcodeOf_le (i : Instr) : (opcodeOf i).toNat ≤ 0x0D := by
  obtain ⟨hop, hle⟩ := instrOf_some (instrOf_encode i)
  rwa [hop]

open Laws.EncodedHeader in
/-- The header facts of Laws/PerInstr.lean, for every command at once. -/
theorem encodedHeader : ∀ i, Laws.EncodedHeader.Statement i
  | .nop => nop
  | .prepare n cap rate => prepare n cap rate
  | .release => release
  | .setDelayMs ms => setDelayMs ms
  | .setWetGain g => setWetGain g
  | .beginBlock => beginBlock
  | .processSample ch x => processSample ch x
  | .storeRead ch i => storeRead ch i
  | .storeWrite ch i v => storeWrite ch i v
  | .storeAdvance ch => storeAdvance ch
  | .getCursor ch => getCursor ch
  | .getReadCursor ch => getReadCursor ch
  | .readReg n => readReg n
  | .clearErr => clearErr

/-! ### The checks of the decoder (R98) -/

/-- What the decoder answers where the opcode is not reserved. -/
theorem decode_of_instrOf {c : Command} {i : Instr}
    (h : instrOf (opField c.w0) (chField c.w0) c.w1 c.w2 = some i) :
    decode c =
      if rsvField c.w0 ≠ 0 then .illegal .reservedField
      else if chMustBeZero (opField c.w0) ∧ chField c.w0 ≠ 0 then .illegal .channelField
      else if i.isWellFormed then .legal i
      else .illegal .registerNumber := by
  rw [decode, h]

/-- What the decoder answers to a reserved opcode (R95). -/
theorem decode_of_reserved {c : Command} (h : 0x0D < (opField c.w0).toNat) :
    decode c = .illegal .reservedOpcode := by
  rw [decode, (instrOf_none _ _ _ _).mpr h]

/-- The four checks are all that stands between an opcode's command and a legal one. -/
theorem decode_eq_legal {c : Command} {i : Instr} (h : instrOf (opField c.w0) (chField c.w0) c.w1 c.w2 = some i)
    (hrsv : rsvField c.w0 = 0) (hch : chMustBeZero (opField c.w0) = true → chField c.w0 = 0)
    (hwf : i.isWellFormed = true) : decode c = .legal i := by
  rw [decode_of_instrOf h, if_neg (not_not_intro hrsv), if_neg fun ⟨hmust, hne⟩ => hne (hch hmust), if_pos hwf]

/-- The words of a legal command are those the encoder writes, but for ignored words. -/
theorem encode_of_decode {c : Command} {i : Instr} (h : decode c = .legal i) :
    encode i = ⟨c.w0, if usesW1 i then c.w1 else 0, if usesW2 i then c.w2 else 0⟩ := by
  obtain ⟨hi, hrsv, hch, -⟩ := decode_legal h
  have hfield : (if chMustBeZero (opField c.w0) then 0 else chField c.w0) = chField c.w0 := by
    split
    · exact (hch ‹_›).symm
    · rfl
  rw [encode_of_instrOf hi, hfield, header_of_rsvField hrsv]

/-- Words that agree with a legal command's but for ignored words decode to the same command (R97). -/
theorem decode_legal_congr {c c' : Command} {i : Instr} (h : decode c = .legal i) (h0 : c'.w0 = c.w0)
    (h1 : usesW1 i = true → c'.w1 = c.w1) (h2 : usesW2 i = true → c'.w2 = c.w2) : decode c' = .legal i := by
  obtain ⟨hi, hrsv, hch, hwf⟩ := decode_legal h
  exact decode_eq_legal (by rw [h0]; exact instrOf_congr hi h1 h2) (by rwa [h0]) (by rwa [h0]) hwf

/-- Illegal words stay illegal, for the same reason, whatever `W2` holds, and whatever `W1` holds but for READ_REG
(R97). -/
theorem decode_illegal_congr {c c' : Command} {why : Illegal} (h : decode c = .illegal why) (h0 : c'.w0 = c.w0)
    (h1 : (opField c.w0).toNat = 0x0C → c'.w1 = c.w1) : decode c' = .illegal why := by
  rcases Nat.lt_or_ge 0x0D (opField c.w0).toNat with hop | hop
  · rw [decode_of_reserved hop] at h
    rw [decode_of_reserved (by rwa [h0]), h]
  · obtain ⟨i, hi⟩ := exists_instrOf hop (chField c.w0) c.w1 c.w2
    obtain ⟨i', hi'⟩ := exists_instrOf hop (chField c.w0) c'.w1 c'.w2
    have hwf : i'.isWellFormed = i.isWellFormed := by
      rw [Bool.eq_iff_iff, isWellFormed_of_instrOf hi, isWellFormed_of_instrOf hi']
      exact forall_congr' fun hreg => by rw [h1 hreg]
    rw [decode_of_instrOf hi] at h
    rw [decode_of_instrOf (by rwa [h0]), h0, hwf]
    split_ifs at h ⊢ <;> assumption

/-- Settles O1: the encoder's header passes the decoder's checks, and its fields name the command. -/
theorem decodeInvertsEncode : Obligations.DecodeInvertsEncode := by
  intro i hwf
  obtain ⟨hop, hrsv, hch⟩ := encodedHeader i
  exact decode_eq_legal (instrOf_encode i) hrsv (hop ▸ hch) hwf

/-- Settles O2: the encoder's words are those of the command, with 0 where it ignores one. -/
theorem encodeRestoresUsedWords : Obligations.EncodeRestoresUsedWords := by
  intro c i h
  obtain ⟨-, -, -, hwf⟩ := decode_legal h
  rw [encode_of_decode h]
  exact ⟨hwf, rfl, fun h1 => if_pos h1, fun h2 => if_pos h2⟩

/-- Settles O3: each of the decoder's four checks is one of the conditions. -/
theorem legalExactlyUnderTheDecodeRule : Obligations.LegalExactlyUnderTheDecodeRule := by
  intro c
  constructor
  · rintro ⟨i, h⟩
    obtain ⟨hi, hrsv, hch, hwf⟩ := decode_legal h
    exact ⟨(instrOf_some hi).2, hrsv, fun hmem => hch ((chMustBeZero_iff _).mpr hmem),
      (isWellFormed_of_instrOf hi).mp hwf⟩
  · rintro ⟨hop, hrsv, hch, hreg⟩
    obtain ⟨i, hi⟩ := exists_instrOf hop (chField c.w0) c.w1 c.w2
    exact ⟨i, decode_eq_legal hi hrsv (fun hmust => hch ((chMustBeZero_iff _).mp hmust))
      ((isWellFormed_of_instrOf hi).mpr hreg)⟩

/-! ### The mask-and-match table (R98) -/

/-- The row of an opcode: `OP` and `RSV` are fixed bits, and so is a `CH` that must be 0. -/
def rowOf (mnemonic : String) (op : Field8) : OpcodeRow where
  mnemonic := mnemonic
  pattern := header op 0
  mask := (0xFF : Field8) ++ (if chMustBeZero op then 0xFF else 0x00 : Field8) ++ (0xFFFF : Field16)

/-- The row of a command. -/
def tableRow (i : Instr) : OpcodeRow := rowOf (mnemonicOf i) (opcodeOf i)

/-- The table lists the row of each opcode at the opcode's place. -/
theorem opcodeTable_getElem? (i : Instr) : opcodeTable[(opcodeOf i).toNat]? = some (tableRow i) := by
  cases i <;> simp only [tableRow, mnemonicOf, opcodeOf] <;> decide

theorem tableRow_mem (i : Instr) : tableRow i ∈ opcodeTable := List.mem_of_getElem? (opcodeTable_getElem? i)

theorem tableRow_congr {i j : Instr} (h : opcodeOf i = opcodeOf j) : tableRow i = tableRow j := by
  have hi := opcodeTable_getElem? i
  rw [h, opcodeTable_getElem? j] at hi
  exact (Option.some.inj hi).symm

/-- Every row is that of some command's opcode. -/
theorem exists_tableRow {q : OpcodeRow} (h : q ∈ opcodeTable) : ∃ j, q = tableRow j := by
  obtain ⟨k, hk, rfl⟩ := List.getElem_of_mem h
  have hlt : k < 14 := hk
  have hnat : (BitVec.ofNat 8 k).toNat = k := by rw [BitVec.toNat_ofNat]; omega
  obtain ⟨j, hj⟩ := exists_instrOf (op := BitVec.ofNat 8 k) (by omega) 0 0 0
  have hrow := opcodeTable_getElem? j
  rw [(instrOf_some hj).1, hnat, List.getElem?_eq_getElem hk] at hrow
  exact ⟨j, Option.some.inj hrow⟩

/-- A row hits the headers with its opcode that pass the decoder's checks on `RSV` and `CH`. -/
theorem rowOf_hits_iff (mnemonic : String) (op : Field8) (w0 : Word) :
    (rowOf mnemonic op).hits w0 = true ↔
      opField w0 = op ∧ rsvField w0 = 0 ∧ (chMustBeZero op = true → chField w0 = 0) := by
  have hop : opField w0 &&& 0xFF = opField w0 := BitVec.and_allOnes
  have hrsv : rsvField w0 &&& 0xFFFF = rsvField w0 := BitVec.and_allOnes
  have hch : (chField w0 &&& if chMustBeZero op then 0xFF else 0x00) = 0 ↔
      (chMustBeZero op = true → chField w0 = 0) := by
    split
    · rename_i hmust
      rw [show chField w0 &&& 0xFF = chField w0 from BitVec.and_allOnes]
      exact ⟨fun h _ => h, fun h => h hmust⟩
    · rename_i hmust
      exact iff_of_true BitVec.and_zero fun h => absurd h hmust
  have hmasked : w0 &&& (rowOf mnemonic op).mask =
      opField w0 ++ (chField w0 &&& if chMustBeZero op then 0xFF else 0x00) ++ rsvField w0 := by
    conv_lhs => rw [← append_fields w0, rowOf, BitVec.and_append, BitVec.and_append, hop, hrsv]
  rw [OpcodeRow.hits, beq_iff_eq, hmasked, rowOf, header, append_eq_append_iff, append_eq_append_iff, hch,
    and_assoc, and_comm (a := _ → _)]

/-- Where a row hits, the one check left to fail is that of READ_REG's register number (R96 (c)). -/
theorem readReg_of_illegal_hit {c : Command} {why : Illegal} {j : Instr} (h : decode c = .illegal why)
    (hhits : (tableRow j).hits c.w0 = true) : c.w0 = 0x0C000000 ∧ 9 < c.w1.toNat := by
  obtain ⟨hop, hrsv, hch⟩ := (rowOf_hits_iff _ _ c.w0).mp hhits
  rw [← hop] at hch
  obtain ⟨i, hi⟩ := exists_instrOf (hop ▸ opcodeOf_le j) (chField c.w0) c.w1 c.w2
  have hwf : ¬ i.isWellFormed = true := fun hwf => by
    rw [decode_eq_legal hi hrsv hch hwf] at h
    cases h
  rw [isWellFormed_of_instrOf hi, Classical.not_imp, Nat.not_le] at hwf
  obtain ⟨hreg, hgt⟩ := hwf
  have hreadReg : opField c.w0 = 0x0C := BitVec.eq_of_toNat_eq hreg
  have hheader := header_of_rsvField hrsv
  rw [hch (by rw [hreadReg]; rfl), hreadReg] at hheader
  exact ⟨hheader.symm, hgt⟩

/-- Settles O4: rows hit by their opcode, which each row has alone, and by the checks on `RSV` and `CH`. -/
theorem exactlyOneTableRowHitsALegalHeader : Obligations.ExactlyOneTableRowHitsALegalHeader := by
  refine ⟨fun c i h => ?_, fun c why h => ?_⟩
  · obtain ⟨hi, hrsv, hch, -⟩ := decode_legal h
    have hop := (instrOf_some hi).1
    refine ⟨tableRow i, tableRow_mem i, (rowOf_hits_iff _ _ c.w0).mpr ⟨hop.symm, hrsv, hop ▸ hch⟩, rfl,
      fun q hq hhits => ?_⟩
    obtain ⟨j, rfl⟩ := exists_tableRow hq
    exact tableRow_congr (((rowOf_hits_iff _ _ c.w0).mp hhits).1.symm.trans hop.symm)
  · by_cases hhit : ∃ q ∈ opcodeTable, q.hits c.w0 = true
    · obtain ⟨q, hq, hhits⟩ := hhit
      obtain ⟨j, rfl⟩ := exists_tableRow hq
      exact .inr (readReg_of_illegal_hit h hhits)
    · exact .inl fun q hq => Bool.eq_false_iff.mpr fun hhits => hhit ⟨q, hq, hhits⟩

/-- Settles O6: written-out words (R93, R96, R101). -/
theorem writtenOutWordsDecode : Obligations.WrittenOutWordsDecode := by
  unfold Obligations.WrittenOutWordsDecode
  decide

end Sys2Proof

namespace Sys2Proof.Machine

/-- Settles O5: neither decoding nor the step that follows it reads an ignored word. -/
theorem ignoredWordsChangeNothing : Obligations.IgnoredWordsChangeNothing := by
  refine ⟨fun w0 w1 w2 i h => ⟨fun h1 => ⟨fun v => ?_, ?_⟩, fun h2 => ⟨fun v => ?_, ?_⟩⟩,
    fun w0 w1 w2 why h => ⟨fun v => decode_illegal_congr h rfl fun _ => rfl,
      fun hop v => decode_illegal_congr h rfl fun hreg => absurd hreg hop⟩,
    fun s s' u c c' i hsel hsel' h h0 h1 h2 => ?_⟩
  · exact decode_legal_congr h rfl (fun hused => by rw [h1] at hused; cases hused) fun _ => rfl
  · rw [encode_of_decode h, h1]
    rfl
  · exact decode_legal_congr h rfl (fun _ => rfl) fun hused => by rw [h2] at hused; cases hused
  · rw [encode_of_decode h, h2]
    rfl
  · rw [step_of_select_command hsel h, step_of_select_command hsel' (decode_legal_congr h h0 h1 h2)]

theorem step_of_select_illegal {s t : State} {c : Command} (hsel : select s = .command c t)
    (h : ¬ ∃ i, decode c = .legal i) : step s = .next (raiseError .illegalCmd t) := by
  cases hdec : decode c with
  | legal i => exact absurd ⟨i, hdec⟩ h
  | illegal why => simp [step, fetch, hsel, hdec, rejectIllegal, reject]

/-- Settles O8: each clause breaks one of the conditions of a legal command. -/
theorem illegalWordsAreRejected : Obligations.IllegalWordsAreRejected := by
  intro s t c hsel hbad
  have hillegal : ¬ ∃ i, decode c = .legal i := by
    rw [legalExactlyUnderTheDecodeRule c]
    rintro ⟨hop, hrsv, hch, hreg⟩
    rcases hbad with hreserved | hne | ⟨hmem, hne⟩ | ⟨hop', hgt⟩
    · omega
    · exact hne hrsv
    · exact hne (hch hmem)
    · exact Nat.not_le.mpr hgt (hreg hop')
  obtain ⟨hblk, -⟩ := select_command_frame hsel
  rw [step_of_select_illegal hsel hillegal, ← hblk]
  rfl

end Sys2Proof.Machine
end

section
/-! PROOFS. The assembler (spec/30_encoding.md R101, R102): pseudo-instructions, and the decimal operands, which are
read digit by digit and rounded once. -/

namespace Sys2Proof.Machine

/-! ### Pseudo-instructions (R102) -/

theorem expandLists_eq (k : Nat) (xss : List (List Word)) :
    expandLists k xss =
      ((xss.zipIdx k).map fun p => p.1.map (Instr.processSample (BitVec.ofNat 8 p.2))).flatten := by
  induction xss generalizing k with
  | nil => rfl
  | cons xs rest ih => rw [expandLists, ih, List.zipIdx_cons, List.map_cons, List.flatten_cons]

/-- Settles O58: CALL_BLOCK numbers its lists from channel 0. -/
theorem pseudoInstructionsExpand : Obligations.PseudoInstructionsExpand :=
  ⟨fun _ _ => rfl, fun _ _ => rfl, rfl, fun xss => congrArg (Instr.beginBlock :: ·) (expandLists_eq 0 xss)⟩

/-! ### The rounding of a ratio (R101) -/

theorem roundRatio_eq (num den : Nat) : roundRatio num den = roundQuotient (num * 2 ^ 149) den := rfl

/-- A ratio in units of 2^-149. -/
theorem div_eq_signedUnits (num den : Nat) :
    (num : ℚ) / den = signedUnits false ((num * 2 ^ 149 : ℕ) / den) := by
  have hunit : (2 : ℚ) ^ (-149 : ℤ) = 1 / 2 ^ 149 := by norm_num
  rw [signedUnits, if_neg Bool.false_ne_true, hunit]
  push_cast
  ring

theorem roundRatio_nearestEven {num den : Nat} (hden : 0 < den)
    (hfin : isFinite (f32Pattern false (roundRatio num den)) = true) (c : Word) :
    NearestEven (num / den) (val (f32Pattern false (roundRatio num den))) (val c)
      ((f32Pattern false (roundRatio num den)).getLsbD 0 = false) := by
  rw [div_eq_signedUnits]
  exact roundQuotient_nearestEven false _ hden hfin c

/-- Where the rounding of a ratio overflows (R10 (2)). -/
theorem not_isFinite_roundRatio_iff (num : Nat) {den : Nat} (hden : 0 < den) :
    isFinite (f32Pattern false (roundRatio num den)) = false ↔ (2 : ℚ) ^ 128 - 2 ^ 103 ≤ num / den := by
  have hnonneg : (0 : ℚ) ≤ num / den := by positivity
  rw [roundRatio_eq, not_isFinite_roundQuotient_iff false _ hden, ← div_eq_signedUnits, abs_of_nonneg hnonneg]

theorem roundRatio_of_overflow {num den : Nat}
    (h : isFinite (f32Pattern false (roundRatio num den)) = false) :
    f32Pattern false (roundRatio num den) = 0x7F800000 := by
  rw [roundRatio_eq, roundQuotient_of_overflow false h]
  rfl

/-- Settles O60: a ratio is rounded as a signed fraction of units is. -/
theorem ratiosRoundToNearestEven : Obligations.RatiosRoundToNearestEven :=
  fun _ _ hden hfin c _ => roundRatio_nearestEven hden hfin c

/-! ### The text of a decimal number -/

theorem decDigit_digitChar (d : Fin 10) : decDigit (digitChar d) = some d.val := by
  revert d
  decide

/-- No digit is a point, a minus, or the `x` of a hexadecimal pattern. -/
theorem digitChar_ne (d : Fin 10) :
    digitChar d ≠ '.' ∧ digitChar d ≠ '-' ∧ digitChar d ≠ '−' ∧ digitChar d ≠ 'x' := by
  revert d
  decide

/-- Digits are read from the most significant one on. -/
theorem digitsFrom_digitChar (acc : Nat) (ds : List (Fin 10)) :
    digitsFrom 10 decDigit acc (ds.map digitChar) =
      some (acc * 10 ^ ds.length + Nat.ofDigits 10 (ds.map Fin.val).reverse) := by
  induction ds generalizing acc with
  | nil => simp [digitsFrom]
  | cons d ds ih =>
    rw [List.map_cons, digitsFrom, decDigit_digitChar]
    simp only [ih, List.map_cons, List.reverse_cons, Nat.ofDigits_append, List.length_cons, List.length_reverse,
      List.length_map, Nat.ofDigits_singleton, Option.some.injEq]
    ring

/-- The digits before the point are set aside one by one. -/
theorem splitPoint_digitChar (acc : List Char) (ds : List (Fin 10)) (cs : List Char) :
    splitPoint acc (ds.map digitChar ++ cs) = splitPoint ((ds.map digitChar).reverse ++ acc) cs := by
  induction ds generalizing acc with
  | nil => rfl
  | cons d ds ih =>
    obtain ⟨hpoint, -⟩ := digitChar_ne d
    rw [List.map_cons, List.cons_append, splitPoint, if_neg hpoint, ih]
    simp

theorem splitPoint_decimalText (whole frac : List (Fin 10)) :
    splitPoint [] (decimalText whole frac) = (whole.map digitChar, frac.map digitChar) := by
  rw [decimalText, splitPoint_digitChar]
  split
  · rename_i hfrac
    simp [splitPoint, hfrac]
  · simp [splitPoint]

/-- The number a decimal text writes is a ratio: all its digits over a power of ten. -/
theorem decimalFields_decimalText {whole : List (Fin 10)} (frac : List (Fin 10)) (h : whole ≠ []) :
    decimalFields (decimalText whole frac) =
      some (roundRatio (Nat.ofDigits 10 ((whole ++ frac).map Fin.val).reverse) (10 ^ frac.length)) := by
  have hne : (whole.map digitChar).isEmpty = false := by simpa using h
  rw [decimalFields, splitPoint_decimalText]
  simp only [hne, ← List.map_append, digitsFrom_digitChar]
  simp

/-- Text that begins with neither a minus nor `0x` is an unsigned decimal number. -/
theorem binary32_unsigned {c : Char} {cs : List Char} (hminus : c ≠ '-') (hminus' : c ≠ '−')
    (hx : cs.head? ≠ some 'x') : binary32 (c :: cs) = (decimalFields (c :: cs)).map (f32Pattern false) := by
  unfold binary32
  split
  · rename_i heq
    cases heq
    exact absurd rfl hx
  · rename_i heq
    cases heq
    exact absurd rfl hminus
  · rename_i heq
    cases heq
    exact absurd rfl hminus'
  · rfl

theorem binary32_decimalText {whole : List (Fin 10)} (frac : List (Fin 10)) (h : whole ≠ []) :
    binary32 (decimalText whole frac) = (decimalFields (decimalText whole frac)).map (f32Pattern false) := by
  obtain ⟨d, ds, rfl⟩ := List.exists_cons_of_ne_nil h
  obtain ⟨-, hminus, hminus', -⟩ := digitChar_ne d
  rw [decimalText, List.map_cons, List.cons_append]
  refine binary32_unsigned hminus hminus' ?_
  cases ds with
  | nil => split <;> simp
  | cons e ds =>
    obtain ⟨-, -, -, hx⟩ := digitChar_ne e
    simpa using hx

theorem binary32_minus {minus : Char} (h : minus ∈ ['-', '−']) (cs : List Char) :
    binary32 (minus :: cs) = (decimalFields cs).map (f32Pattern true) := by
  simp only [List.mem_cons, List.not_mem_nil, or_false] at h
  rcases h with rfl | rfl <;> rfl

/-- Settles O59: the text's digits are the ratio that is rounded, and a minus sets the sign of the result. -/
theorem decimalOperandsRoundToNearestEven : Obligations.DecimalOperandsRoundToNearestEven := by
  intro whole frac hwhole
  have hfields := decimalFields_decimalText frac hwhole
  have hvalue : decimalValue whole frac =
      (Nat.ofDigits 10 ((whole ++ frac).map Fin.val).reverse : ℕ) / (10 ^ frac.length : ℕ) := by
    rw [decimalValue, Nat.cast_pow, Nat.cast_ofNat]
  have hden : 0 < 10 ^ frac.length := by positivity
  rw [hvalue]
  generalize Nat.ofDigits 10 ((whole ++ frac).map Fin.val).reverse = num at *
  generalize 10 ^ frac.length = den at *
  have hlt : roundRatio num den < 2 ^ 31 := roundQuotient_lt _ _
  refine ⟨f32Pattern false (roundRatio num den), f32Pattern true (roundRatio num den), ?_,
    f32Sign_pattern false hlt, fun minus hminus => ?_, ?_, fun hover => ?_, fun hunder => ?_⟩
  · rw [binary32_decimalText frac hwhole, hfields]
    rfl
  · rw [binary32_minus hminus, hfields]
    rfl
  · rw [f32Pattern_toNat false hlt, f32Pattern_toNat true hlt]
    simp [add_comm]
  · exact roundRatio_of_overflow ((not_isFinite_roundRatio_iff num hden).mpr hover)
  · have hfin : isFinite (f32Pattern false (roundRatio num den)) = true := by
      rw [← Bool.not_eq_false, not_isFinite_roundRatio_iff num hden]
      exact not_le.mpr hunder
    exact ⟨hfin, fun c _ => roundRatio_nearestEven hden hfin c⟩

end Sys2Proof.Machine
end

section
/-! PROOFS. The store commands (spec/41_store.md): the session PREPARE starts, the cells a write leaves, the write
cursors, and how runs of advances wrap. -/

namespace Sys2Proof.Machine

/-! ### The session PREPARE starts (R120) -/

/-- Each line of PREPARE's operand check. -/
theorem configOutOfRange_iff {p : Params} {n : Field8} {cap rate : Word} :
    configOutOfRange p n cap rate = true ↔
      n.toNat = 0 ∨ p.chMax.toNat < n.toNat ∨ cap.toNat = 0 ∨ p.capMax.toNat < cap.toNat ∨ rate = 0 := by
  simp only [configOutOfRange, channelCountOperand_toNat, decide_eq_true_eq, Nat.lt_one_iff]
  tauto

theorem exec_prepare_of_outOfRange {n : Field8} {cap rate : Word} {s : State} (hport : s.env.port = .a)
    (h : configOutOfRange s.cfg n cap rate = true) :
    exec (.prepare n cap rate) s = .next (raiseError .badConfig s) :=
  (requirePortA_of hport _).trans (if_pos h)

/-- A new session has the cells its operands give, and each reads 0 (R126 (c)). -/
theorem Block.startSession_readCell (b : Block) (n cap rate : Word) (ch : Nat) (j : Int) :
    (b.startSession n cap rate).readCell ch j =
      if ch < n.toNat ∧ 0 ≤ j ∧ j < cap.toNat then some 0x00000000 else none := by
  have hcell : (b.startSession n cap rate).hasCell ch j = true ↔ ch < n.toNat ∧ 0 ≤ j ∧ j < cap.toNat := by
    simp [Block.hasCell_iff]
  simp only [Block.readCell, hcell]
  rfl

/-- A new session has one cursor per channel, at 0. -/
theorem Block.startSession_cursor (b : Block) (n cap rate : Word) (ch : Nat) :
    (b.startSession n cap rate).cursor ch = if ch < n.toNat then some 0 else none := by
  rw [Block.cursor, Block.startSession_wcur, List.getElem?_replicate]

/-- Settles O31: legal operands pass the check, and the session started is one of zeros. -/
theorem prepareStartsAZeroedSession : Obligations.PrepareStartsAZeroedSession := by
  intro n cap rate s hport hn hnMax hcap hcapMax hrate
  have hlegal : configOutOfRange s.cfg n cap rate = false := by
    simp only [← Bool.not_eq_true, configOutOfRange_iff, not_or]
    exact ⟨by omega, by omega, by omega, by omega, hrate⟩
  have hcount := channelCountOperand_toNat n
  refine ⟨_, (Succeeds.prepare hport hlegal).exec_eq, rfl, rfl, rfl, rfl, hcount, rfl, fun ch j => ?_, fun ch => ?_,
    rfl, rfl, rfl, rfl, rfl, rfl, rfl, rfl⟩
  · rw [← hcount]
    exact Block.startSession_readCell ..
  · rw [← hcount]
    exact Block.startSession_cursor ..

/-- Settles O32: a rejection records its error and no more. -/
theorem rejectedPrepareKeepsTheOldSession : Obligations.RejectedPrepareKeepsTheOldSession :=
  fun _ _ _ _ hport hbad =>
    ⟨_, exec_prepare_of_outOfRange hport (configOutOfRange_iff.mpr hbad), rfl, rfl, rfl⟩

/-! ### Cells (R121, R122, R126) -/

/-- In an admitted state an index below the capacity names a cell. -/
theorem State.Admits.hasCell_of_lt {s : State} {ch : Field8} (h : s.Admits ch) {i : Nat}
    (hi : i < s.blk.capacity.toNat) : s.blk.hasCell ch.toNat i = true :=
  h.hasCell (Int.natCast_nonneg i) (Int.ofNat_lt.mpr hi)

theorem Block.readCell_write_same {b : Block} (hwf : Memory.wf b.rb) {ch i : Nat} (hcell : b.hasCell ch i = true)
    (v : Word) : Block.readCell { b with rb := b.rb.write (cellKey ch i) v } ch i = some v :=
  (if_pos hcell).trans (congrArg some (Memory.read_write_same (cellKey ch i) v hwf))

/-- A write to one cell changes no other cell (R126 (b)). -/
theorem Block.readCell_write_other {b : Block} {ch i ch' : Nat} {j : Int} (hi : i < 2 ^ 32) (v : Word)
    (hne : ch' ≠ ch ∨ j ≠ i) :
    Block.readCell { b with rb := b.rb.write (cellKey ch i) v } ch' j = b.readCell ch' j := by
  rcases b.readCell_eq ch' j with ⟨hcell, hread⟩ | ⟨hcell, hread⟩ <;> rw [hread]
  · obtain ⟨-, -, hnonneg, hcap⟩ := (b.hasCell_iff ch' j).mp hcell
    have hj : j.toNat < 2 ^ 32 := by have := b.capacity.isLt; omega
    have hkey : cellKey ch' j.toNat ≠ cellKey ch i := fun heq => by
      obtain ⟨hch, hindex⟩ := cellKey_inj hj hi heq
      omega
    exact (if_pos hcell).trans (congrArg some (Memory.read_write_other v hkey))
  · exact if_neg (Bool.eq_false_iff.mp hcell)

/-- Settles O33: the conditions of success hold, and a read leaves the block. -/
theorem storeReadAnswersTheCell : Obligations.StoreReadAnswersTheCell := by
  intro ch i s hport hses hch hi
  have hadm : s.Admits ch := ⟨hport, hses, hch⟩
  have hread := Block.readCell_of_hasCell (hadm.hasCell_of_lt hi)
  exact ⟨_, hread, (Succeeds.storeRead hadm hread).exec_eq⟩

/-- Settles O34: a read after the write finds the value at its key, and at every other key what was there. -/
theorem storeWriteWritesOnlyItsCell : Obligations.StoreWriteWritesOnlyItsCell := by
  rintro ch i v s ⟨-, ⟨hwf, -⟩, -⟩ hport hses hch hi
  have hadm : s.Admits ch := ⟨hport, hses, hch⟩
  have hcell := hadm.hasCell_of_lt hi
  have hsame := Block.readCell_write_same hwf hcell v
  refine ⟨_, (Succeeds.storeWrite hadm hcell).exec_eq, rfl, rfl, rfl, hsame,
    fun _ _ hne => Block.readCell_write_other i.isLt v hne, ?_⟩
  exact Succeeds.exec_eq (.storeRead ⟨hport, hses, hch⟩ hsame)

/-! ### Cursors (R123, R124; 42_engine.md R152, R156) -/

theorem Block.setCursor_cursor_same {b : Block} {ch : Nat} {w : Word} (h : b.cursor ch = some w) (w' : Word) :
    (b.setCursor ch w').cursor ch = some w' := by
  obtain ⟨hlt, -⟩ := List.getElem?_eq_some_iff.mp h
  exact List.getElem?_set_self hlt

theorem Block.setCursor_cursor_other {b : Block} {ch ch' : Nat} (h : ch' ≠ ch) (w : Word) :
    (b.setCursor ch w).cursor ch' = b.cursor ch' :=
  List.getElem?_set_ne h.symm

/-- Under the invariant a cursor is below the capacity (10_state.md R24). -/
theorem Block.CursorInv.lt_capacity {b : Block} (h : b.CursorInv) {ch : Nat} {w : Word} (hcur : b.cursor ch = some w) :
    w.toNat < b.capacity.toNat := by
  obtain ⟨-, hbelow⟩ := h
  exact hbelow _ (List.mem_map_of_mem (List.mem_of_getElem? hcur))

/-- Under the invariant a latched delay, 0 in bypass, is at most the capacity (10_state.md R32). -/
theorem Block.LatchInv.delaySamples_le {b : Block} (h : b.LatchInv) (hvalid : b.blockValid = true) :
    b.delaySamples.toNat ≤ b.capacity.toNat := by
  obtain ⟨-, hbypass, hdelay, -⟩ := h
  cases hb : b.bypass with
  | true => simp [hbypass hvalid hb]
  | false => exact (hdelay hvalid hb).2

/-- The read cursor's one correction is the difference modulo the capacity (42_engine.md R152). -/
theorem readCursor_eq_emod {w d cap : Word} (hw : w.toNat < cap.toNat) (hd : d.toNat ≤ cap.toNat) :
    readCursor w d cap = ((w.toNat : Int) - d.toNat) % cap.toNat := by
  simp only [readCursor]
  split
  · rw [← Int.add_emod_right, Int.emod_eq_of_lt] <;> omega
  · rw [Int.emod_eq_of_lt] <;> omega

/-- GET_READ_CURSOR's result is that difference, with no bit lost (42_engine.md R155). -/
theorem toNat_ofInt_readCursor {w d cap : Word} (hw : w.toNat < cap.toNat) (hd : d.toNat ≤ cap.toNat) :
    ((BitVec.ofInt 32 (readCursor w d cap)).toNat : Int) = ((w.toNat : Int) - d.toNat) % cap.toNat := by
  rw [BitVec.toNat_ofInt, readCursor_eq_emod hw hd]
  have hnonneg := Int.emod_nonneg ((w.toNat : Int) - d.toNat) (b := cap.toNat) (by omega)
  have hlt := Int.emod_lt_of_pos ((w.toNat : Int) - d.toNat) (b := cap.toNat) (by omega)
  have hcap := cap.isLt
  rw [Int.toNat_of_nonneg (by omega), Int.emod_eq_of_lt hnonneg (by omega)]

/-- Settles O35: the channel has a cursor, and the update of one cursor touches no other. -/
theorem storeAdvanceMovesOneCursor : Obligations.StoreAdvanceMovesOneCursor := by
  rintro ch s ⟨-, -, hcursor, -⟩ hport hses hch
  obtain ⟨w, hcur, hw⟩ := hcursor.exists_cursor hch
  exact ⟨_, w, _, hcur, (Succeeds.storeAdvance ⟨hport, hses, hch⟩ hcur).exec_eq, rfl, rfl, rfl,
    Block.setCursor_cursor_same hcur _, advanceCursor_toNat hw, fun _ hne => Block.setCursor_cursor_other hne _⟩

/-- Settles O36: both reads succeed and leave the block. -/
theorem cursorReadsAnswerTheCursors : Obligations.CursorReadsAnswerTheCursors := by
  rintro ch s ⟨-, -, hcursor, hlatch, -⟩ hport hses hch
  have hadm : s.Admits ch := ⟨hport, hses, hch⟩
  obtain ⟨w, hcur, hw⟩ := hcursor.exists_cursor hch
  refine ⟨w, hcur, (Succeeds.getCursor hadm hcur).exec_eq, fun hvalid => ?_⟩
  exact ⟨_, (Succeeds.getReadCursor hadm hvalid hcur).exec_eq,
    toNat_ofInt_readCursor hw (hlatch.delaySamples_le hvalid)⟩

/-! ### Runs of advances (R125) -/

theorem execAll_cons {i : Instr} {s t : State} (h : exec i s = .next t) (is : List Instr) :
    execAll (i :: is) s = execAll is t := by
  rw [execAll, h]

/-- On a ready channel PROCESS_SAMPLE finds its tap and advances (42_engine.md R153). -/
theorem succeeds_processSample_of_ready {s : State} {ch : Field8} {w : Word} (hinv : s.Inv) (hready : s.readyFor ch)
    (hcur : s.blk.cursor ch.toNat = some w) (x : Word) :
    ∃ tap, s.blk.readCell ch.toNat (readCursor w s.blk.delaySamples s.blk.capacity) = some tap ∧
      Succeeds s (.processSample ch x) (mix x tap s.blk.gainLatched)
        (Block.setCursor { s.blk with rb := s.blk.rb.write (cellKey ch.toNat w.toNat) x } ch.toNat
          (advanceCursor s.blk.capacity w)) := by
  obtain ⟨-, -, hcursor, ⟨-, -, hdelay, -⟩, -⟩ := hinv
  obtain ⟨hport, hses, hch, hvalid, hbypass⟩ := hready
  have hadm : s.Admits ch := ⟨hport, hses, hch⟩
  have hw := hcursor.lt_capacity hcur
  obtain ⟨hone, hcap⟩ := hdelay hvalid hbypass
  obtain ⟨hnonneg, hlt⟩ := readCursor_bounds hw hone hcap
  have htap := Block.readCell_of_hasCell (hadm.hasCell hnonneg hlt)
  exact ⟨_, htap, .processDelayed hadm hvalid hbypass hcur htap (hadm.hasCell_of_lt hw)⟩

/-- An advance of a ready channel leaves it ready and moves its cursor by one. -/
theorem exec_advance {s : State} {ch : Field8} {i : Instr} {w : Word} (hinv : s.Inv) (hready : s.readyFor ch)
    (hcur : s.blk.cursor ch.toNat = some w) (hi : i = .storeAdvance ch ∨ ∃ x, i = .processSample ch x) :
    ∃ t, exec i s = .next t ∧ t.readyFor ch ∧ t.blk.capacity = s.blk.capacity ∧
      t.blk.cursor ch.toNat = some (advanceCursor s.blk.capacity w) := by
  rcases hi with rfl | ⟨x, rfl⟩
  · have ⟨hport, hses, hch, _⟩ := hready
    exact ⟨_, (Succeeds.storeAdvance ⟨hport, hses, hch⟩ hcur).exec_eq, hready, rfl,
      Block.setCursor_cursor_same hcur _⟩
  · obtain ⟨tap, -, hsucc⟩ := succeeds_processSample_of_ready hinv hready hcur x
    exact ⟨_, hsucc.exec_eq, hready, rfl, Block.setCursor_cursor_same hcur _⟩

/-- Settles O37, by induction on the list of advances. -/
theorem advancesWrapAtTheCapacity : Obligations.AdvancesWrapAtTheCapacity := by
  intro s ch is
  induction is generalizing s with
  | nil =>
    rintro w ⟨-, -, hcursor, -⟩ - hcur -
    exact ⟨s, w, rfl, hcur, (Nat.mod_eq_of_lt (hcursor.lt_capacity hcur)).symm⟩
  | cons i is ih =>
    intro w hinv hready hcur his
    have ⟨_, _, hcursor, _⟩ := hinv
    obtain ⟨hi, his⟩ := List.forall_mem_cons.mp his
    obtain ⟨t, hexec, hready', hcap, hcur'⟩ := exec_advance hinv hready hcur hi
    obtain ⟨u, w', hrun, hlast, hw'⟩ := ih t _ (exec_keeps_inv hexec hinv) hready' hcur' his
    refine ⟨u, w', (execAll_cons hexec is).trans hrun, hlast, ?_⟩
    rw [hw', hcap, advanceCursor_toNat (hcursor.lt_capacity hcur), Nat.mod_add_mod, List.length_cons, Nat.add_assoc,
      Nat.add_comm 1]

end Sys2Proof.Machine
end

section
/-! PROOFS. The engine commands (spec/42_engine.md): the delay conversion, BEGIN_BLOCK, the read cursor and one
PROCESS_SAMPLE. -/

namespace Sys2Proof.Machine

/-! ### The delay conversion (R150) -/

/-- The conversion's integer quotient is the floor on rationals. -/
theorem delayCount_eq_floor (ms rate : Word) : delayCount ms rate = ⌊val ms * rate.toNat / 1000⌋ := by
  have hratio : val ms * rate.toNat / 1000 = (f32Scaled ms * rate.toNat : ℤ) / (1000 * 2 ^ 149 : ℕ) := by
    have hunit : (2 : ℚ) ^ (-149 : ℤ) = 1 / 2 ^ 149 := by norm_num
    rw [val_eq_scaled, hunit]
    push_cast
    ring
  rw [hratio, Rat.floor_intCast_div_natCast, delayCount]
  norm_num

/-- A finite delay time is converted by its count alone. -/
theorem convert_of_isFinite {ms : Word} (h : isFinite ms = true) (rate cap : Word) :
    convert ms rate cap =
      if delayCount ms rate < 1 then .bypass
      else if (cap.toNat : Int) < delayCount ms rate then .range
      else .delay (delayCount ms rate).toNat := by
  have hpos : ms ≠ 0x7F800000 := by rintro rfl; exact absurd h (by decide)
  have hneg : ms ≠ 0xFF800000 := by rintro rfl; exact absurd h (by decide)
  rw [convert, if_neg (by rw [isNaN_eq_false_of_isFinite h]; simpa using hpos), if_neg hneg]

/-- Settles O38: the count of a finite delay time is the floor, and the other patterns are told apart before it. -/
theorem conversionIsTheExactFloor : Obligations.ConversionIsTheExactFloor := by
  refine fun ms rate cap => ⟨fun h => if_pos h, ?_, fun h => ?_⟩
  · rintro rfl
    exact (if_neg (by decide)).trans (if_pos rfl)
  · rw [convert_of_isFinite h, ← delayCount_eq_floor]
    refine ⟨fun hlt => if_pos hlt, fun hone hcap => ?_, fun d hone hcap hd => ?_⟩
    · rw [if_neg (by omega), if_pos hcap]
    · rw [if_neg (by omega), if_neg (by omega), ← hd, Int.toNat_natCast]

/-! ### BEGIN_BLOCK (R151) -/

/-- A delay time out of range clears the latch before the error is recorded (60_exceptions.md R222). -/
theorem exec_beginBlock_of_range {s : State} (hport : s.env.port = .a) (hses : s.blk.session = .prepared)
    (hconv : convert s.blk.delayMs s.blk.sampleRate s.blk.capacity = .range) :
    exec .beginBlock s = .next (raiseError .delayRange { s with blk := s.blk.clearLatch }) := by
  simp only [exec, execBeginBlock, requirePortA_of hport, requireSession_of hses, hconv, reject]

/-- Settles O39: one outcome per conversion, and a delay is below 2^32, so its word holds it whole. -/
theorem beginBlockLatchesDelayAndGain : Obligations.BeginBlockLatchesDelayAndGain := by
  refine fun s hport hses => ⟨fun hconv => (Succeeds.beginBypass hport hses hconv).exec_eq, fun d hconv => ?_,
    fun hconv => ⟨_, exec_beginBlock_of_range hport hses hconv, rfl, rfl, rfl⟩⟩
  obtain ⟨-, hcap⟩ := convert_delay_bounds hconv
  exact ⟨BitVec.ofNat 32 d, Nat.mod_eq_of_lt (hcap.trans_lt s.blk.capacity.isLt),
    (Succeeds.beginDelay hport hses hconv).exec_eq⟩

/-! ### The read cursor (R152) -/

/-- Settles O40: a residue lies below its modulus, and `w - cap` and `w` have the same. -/
theorem readCursorIsTheModularDifference : Obligations.ReadCursorIsTheModularDifference := by
  intro w d cap hw hd
  rw [readCursor_eq_emod hw hd]
  refine ⟨rfl, Int.emod_nonneg _ (by omega), Int.emod_lt_of_pos _ (by omega), ?_⟩
  rintro rfl
  rw [Int.sub_emod_right, Int.emod_eq_of_lt (by omega) (by omega)]

/-! ### One PROCESS_SAMPLE (R153, R159) -/

/-- Settles O41: the conditions of success in bypass. -/
theorem bypassReturnsTheInput : Obligations.BypassReturnsTheInput :=
  fun _ _ _ hport hses hch hvalid hbypass =>
    (Succeeds.processBypassed ⟨hport, hses, hch⟩ hvalid hbypass).exec_eq

/-- The block after the dry sample `x` is stored at cursor `w` of channel `ch` and the cursor advanced. -/
def Block.afterSample (b : Block) (ch : Nat) (w x : Word) : Block :=
  Block.setCursor { b with rb := b.rb.write (cellKey ch w.toNat) x } ch (advanceCursor b.capacity w)

/-- On a ready channel PROCESS_SAMPLE reads its tap at the modular difference, then stores and advances. -/
theorem exec_processSample_of_ready {s : State} {ch : Field8} {w : Word} (hinv : s.Inv) (hready : s.readyFor ch)
    (hcur : s.blk.cursor ch.toNat = some w) (x : Word) :
    ∃ tap,
      s.blk.readCell ch.toNat (((w.toNat : Int) - s.blk.delaySamples.toNat) % s.blk.capacity.toNat) = some tap ∧
      exec (.processSample ch x) s =
        .next (respond (mix x tap s.blk.gainLatched) { s with blk := s.blk.afterSample ch.toNat w x }) := by
  obtain ⟨tap, htap, hsucc⟩ := succeeds_processSample_of_ready hinv hready hcur x
  obtain ⟨-, -, hcursor, hlatch, -⟩ := hinv
  obtain ⟨-, -, -, hvalid, -⟩ := hready
  rw [readCursor_eq_emod (hcursor.lt_capacity hcur) (hlatch.delaySamples_le hvalid)] at htap
  exact ⟨tap, htap, hsucc.exec_eq⟩

theorem Block.afterSample_readCell_same {b : Block} (hwf : Memory.wf b.rb) {ch : Nat} {w : Word}
    (hcell : b.hasCell ch w.toNat = true) (x : Word) : (b.afterSample ch w x).readCell ch w.toNat = some x :=
  Block.readCell_write_same hwf hcell x

theorem Block.afterSample_readCell_other {b : Block} {ch ch' : Nat} {w : Word} {j : Int} (x : Word)
    (hne : ch' ≠ ch ∨ j ≠ w.toNat) : (b.afterSample ch w x).readCell ch' j = b.readCell ch' j :=
  Block.readCell_write_other (b := b) w.isLt x hne

theorem State.readyFor.admits {s : State} {ch : Field8} (h : s.readyFor ch) : s.Admits ch := by
  obtain ⟨hport, hses, hch, -⟩ := h
  exact ⟨hport, hses, hch⟩

/-- Settles O42: the tap is read before the write, which touches the cursor's cell alone. -/
theorem processSampleTapsStoresAndAdvances : Obligations.ProcessSampleTapsStoresAndAdvances := by
  intro ch x s hinv hready
  have ⟨_, ⟨hwf, _⟩, hcursor, _⟩ := hinv
  have hadm := State.readyFor.admits hready
  obtain ⟨w, hcur, hw⟩ := hcursor.exists_cursor hadm.channel
  obtain ⟨tap, htap, hexec⟩ := exec_processSample_of_ready hinv hready hcur x
  exact ⟨_, w, _, tap, hcur, htap, hexec, rfl, rfl, rfl,
    Block.afterSample_readCell_same hwf (hadm.hasCell_of_lt hw) x,
    fun _ _ => Block.afterSample_readCell_other x, Block.setCursor_cursor_same hcur _, advanceCursor_toNat hw,
    fun _ hne => Block.setCursor_cursor_other hne _⟩

end Sys2Proof.Machine
end

section
/-! PROOFS. Exact binary32 results (00_scope.md R10 (1)), and what they give of the mix (42_engine.md R157, R162):
zero products, the unit as a factor, and doubled gains. -/

namespace Sys2Proof.Machine

/-! ### Magnitudes that are rounded to themselves -/

/-- `N` has the form `m * 2 ^ e` of a binary32 magnitude: 24 significant bits at most, and fewer only at the least
exponent. The exponent has no upper bound here. -/
def HasForm (m e N : Nat) : Prop := N = m * 2 ^ e ∧ m < 2 ^ 24 ∧ (e ≠ 0 → 2 ^ 23 ≤ m)

theorem f32Mag_hasForm (b : Word) :
    ∃ m e, HasForm m e (f32Mag b) ∧ e * 2 ^ 23 + m = f32Exp b * 2 ^ 23 + f32Frac b := by
  have hfrac := f32Frac_lt b
  by_cases hexp : f32Exp b = 0
  · exact ⟨f32Frac b, 0, ⟨by simp [f32Mag, hexp], by omega, by omega⟩, by simp [hexp]⟩
  · exact ⟨2 ^ 23 + f32Frac b, f32Exp b - 1, ⟨by simp [f32Mag, hexp], by omega, by omega⟩, by omega⟩

theorem HasForm.double {m e N : Nat} (h : HasForm m e N) : ∃ m' e', HasForm m' e' (2 * N) := by
  obtain ⟨rfl, hlt, hnormal⟩ := h
  by_cases hm : 2 ^ 23 ≤ m
  · exact ⟨m, e + 1, by ring, hlt, fun _ => hm⟩
  · obtain rfl : e = 0 := by_contra fun he => hm (hnormal he)
    exact ⟨2 * m, 0, by ring, by omega, fun h0 => absurd rfl h0⟩

section
variable {m e N d : Nat} (h : HasForm m e N) (hd : 0 < d)
include h hd

theorem HasForm.quantumExp_eq : quantumExp (d * N) d = e := by
  obtain ⟨rfl, hlt, hnormal⟩ := h
  rw [quantumExp, Nat.mul_div_cancel_left _ hd, roundShift, Nat.log2_eq_log_two]
  rcases Nat.eq_zero_or_pos e with rfl | he
  · have := Nat.log_lt_of_lt_pow' (b := 2) (by norm_num) hlt
    rw [pow_zero, mul_one]
    omega
  · have hlog : Nat.log 2 (m * 2 ^ e) = 23 + e := by
      refine Nat.log_eq_of_pow_le_of_lt_pow ?_ ?_
      · rw [pow_add]
        exact Nat.mul_le_mul_right _ (hnormal he.ne')
      · rw [add_right_comm, pow_add]
        exact Nat.mul_lt_mul_of_pos_right hlt (by positivity)
    omega

theorem HasForm.roundedSignificand_eq : roundedSignificand (d * N) d = m := by
  rw [roundedSignificand, h.quantumExp_eq hd]
  obtain ⟨rfl, -⟩ := h
  have hpos : 0 < d * 2 ^ e := by positivity
  have hprod : d * (m * 2 ^ e) = d * 2 ^ e * m := by ring
  simp [hprod, roundHalfEven, Nat.mul_div_cancel_left _ hpos, hpos]

end

theorem f32Pattern_fields (b : Word) : f32Pattern (f32Sign b) (f32Exp b * 2 ^ 23 + f32Frac b) = b := by
  have hexp := f32Exp_lt b
  have hfrac := f32Frac_lt b
  have hfields : f32Exp b * 2 ^ 23 + f32Frac b < 2 ^ 31 := by omega
  refine f32_ext (f32Sign_pattern _ hfields) ?_ ?_
  · rw [f32Exp_pattern _ hfields]
    omega
  · rw [f32Frac_pattern _ hfields]
    omega

/-- A finite value is rounded to itself. -/
theorem f32Pattern_round_f32Mag {b : Word} (h : isFinite b = true) {d : Nat} (hd : 0 < d) :
    f32Pattern (f32Sign b) (roundQuotient (d * f32Mag b) d) = b := by
  obtain ⟨m, e, hform, hfields⟩ := f32Mag_hasForm b
  have hexp : f32Exp b ≠ 255 := by simpa [isFinite] using h
  have hexp' := f32Exp_lt b
  have hfrac := f32Frac_lt b
  rw [roundQuotient_eq, hform.quantumExp_eq hd, hform.roundedSignificand_eq hd, hfields, Nat.min_eq_left (by omega),
    f32Pattern_fields]

/-! ### Zeros -/

theorem isZero_iff (b : Word) : isZero b = true ↔ f32Mag b = 0 := by
  simp only [isZero, f32Mag, decide_eq_true_eq]
  split <;> simp [*]

theorem isFinite_of_isZero {b : Word} (h : isZero b = true) : isFinite b = true := by
  simp_all [isZero, isFinite]

theorem isZero_f32Pattern (s : Bool) : isZero (f32Pattern s 0) = true := by cases s <;> decide

/-- A zero is determined by its sign (R9). -/
theorem eq_of_isZero {b : Word} (h : isZero b = true) : b = f32Pattern (f32Sign b) 0 := by
  obtain ⟨hexp, hfrac⟩ : f32Exp b = 0 ∧ f32Frac b = 0 := by simpa [isZero] using h
  simpa [hexp, hfrac] using (f32Pattern_fields b).symm

/-- A product of finite values that is exactly 0 is a zero with the sign of R10 (5). -/
theorem f32Mul_of_mag_eq_zero {a b : Word} (ha : isFinite a = true) (hb : isFinite b = true)
    (h : f32Mag a * f32Mag b = 0) : f32Mul a b = f32Pattern (f32Sign a ^^ f32Sign b) 0 := by
  rw [f32Mul_of_isFinite ha hb, h]
  rfl

theorem natAbs_f32Scaled (b : Word) : (f32Scaled b).natAbs = f32Mag b := by
  unfold f32Scaled
  split <;> simp

theorem f32Sign_of_isZero {b : Word} (h : isZero b = true) (hne : b ≠ 0x80000000) : f32Sign b = false := by
  cases hs : f32Sign b with
  | false => rfl
  | true =>
    rw [eq_of_isZero h, hs] at hne
    exact absurd rfl hne

/-- A zero added to a value that is not -0 leaves its sign. -/
theorem sumSign_isZero {x p : Word} (hne : x ≠ 0x80000000) (hp : f32Scaled p = 0) : sumSign x p = f32Sign x := by
  rw [sumSign, hp, add_zero]
  have hmag := natAbs_f32Scaled x
  split
  · rw [f32Sign_of_isZero ((isZero_iff x).mpr (by omega)) hne, Bool.false_and]
  · cases hs : f32Sign x with
    | false =>
      have : f32Scaled x = f32Mag x := by simp [f32Scaled, hs]
      exact decide_eq_false (by omega)
    | true =>
      have : f32Scaled x = -f32Mag x := by simp [f32Scaled, hs]
      exact decide_eq_true (by omega)

/-- Adding a zero to a finite value that is not -0 gives the value. -/
theorem f32AddFinite_isZero {x p : Word} (hx : isFinite x = true) (hne : x ≠ 0x80000000) (hp : isZero p = true) :
    f32AddFinite x p = x := by
  have hscaled : f32Scaled p = 0 := by rw [← Int.natAbs_eq_zero, natAbs_f32Scaled, ← isZero_iff, hp]
  have hround := f32Pattern_round_f32Mag hx one_pos
  rwa [one_mul, ← natAbs_f32Scaled, ← sumSign_isZero hne hscaled, ← add_zero (f32Scaled x), ← hscaled,
    ← f32AddFinite_eq] at hround

theorem f32AddFinite_comm (a b : Word) : f32AddFinite a b = f32AddFinite b a := by
  rw [f32AddFinite, f32AddFinite, add_comm, Bool.and_comm]

theorem isFinite_or_isInf_of_not_isNaN {b : Word} (h : isNaN b = false) : isFinite b = true ∨ isInf b = true := by
  by_cases hexp : f32Exp b = 255 <;> simp_all [isFinite, isInf, isNaN]

theorem f32Add_isZero {x p : Word} (hx : isNaN x = false) (hne : x ≠ 0x80000000) (hp : isZero p = true) :
    f32Add x p = x := by
  have hfin := isFinite_of_isZero hp
  rcases isFinite_or_isInf_of_not_isNaN hx with h | h
  · rw [f32Add_of_isFinite h hfin, f32AddFinite_isZero h hne hp]
  · exact (f32Add_isInf_isFinite h hfin).1

/-! ### The mix (42_engine.md R157) -/

/-- A zero product passes the dry sample. -/
theorem mix_of_isZero_product {x s g : Word} (hp : isZero (f32Mul s g) = true) (hx : isNaN x = false)
    (hne : x ≠ 0x80000000) : mix x s g = x := by
  rw [mix, f32Add_isZero hx hne hp, canon_of_not_isNaN hx]

/-- Beside a zero product, -0 takes the product's sign. -/
theorem mix_negZero_of_product {s g : Word} {sign : Bool} (h : f32Mul s g = f32Pattern sign 0) :
    mix 0x80000000 s g = f32Pattern sign 0 := by
  rw [mix, h]
  cases sign <;> decide

theorem mix_of_isNaN_product {x s g : Word} (h : f32Mul s g = canonicalNaN) : mix x s g = canonicalNaN := by
  rw [mix, h, f32Add_of_isNaN (.inr isNaN_canonicalNaN), canon_of_isNaN isNaN_canonicalNaN]

theorem mix_of_isNaN_dry {x : Word} (h : isNaN x = true) (s g : Word) : mix x s g = canonicalNaN := by
  rw [mix, f32Add_of_isNaN (.inl h), canon_of_isNaN isNaN_canonicalNaN]

/-- Settles O56: R157 (a), (b) for each sign of the product, and (c) for a NaN on either side of the sum. -/
theorem zeroTapsPassTheDrySample : Obligations.ZeroTapsPassTheDrySample := by
  intro x s g
  refine ⟨mix_of_isZero_product, mix_negZero_of_product (sign := false), mix_negZero_of_product (sign := true), ?_⟩
  rintro (hx | hs | hg | hinf)
  · exact mix_of_isNaN_dry hx s g
  · exact mix_of_isNaN_product (f32Mul_of_isNaN (.inl hs))
  · exact mix_of_isNaN_product (f32Mul_of_isNaN (.inr hg))
  · exact mix_of_isNaN_product (f32Mul_isInf_isZero hinf)

/-! ### Doubled gains (42_engine.md R162) -/

/-- The magnitude of a rounded result that is finite. -/
theorem f32Mag_roundQuotient (s : Bool) (n : Nat) {d : Nat} (hd : 0 < d)
    (hfin : isFinite (f32Pattern s (roundQuotient n d)) = true) :
    f32Mag (f32Pattern s (roundQuotient n d)) = roundedSignificand n d * 2 ^ quantumExp n d := by
  rw [isFinite_roundQuotient] at hfin
  have hfields := roundQuotient_eq_of_lt hfin
  rw [hfields] at hfin ⊢
  exact f32Mag_pattern s (roundedSignificand_le n hd) (le_roundedSignificand hd) hfin

theorem f32Mag_two : f32Mag 0x40000000 = 2 ^ 150 := by decide

/-- A gain doubled exactly, if that is finite. -/
theorem f32Mul_two {g : Word} (hg : isFinite g = true) (hfin : isFinite (f32Mul g 0x40000000) = true) :
    f32Sign (f32Mul g 0x40000000) = f32Sign g ∧ f32Mag (f32Mul g 0x40000000) = 2 * f32Mag g := by
  obtain ⟨_, _, hform, -⟩ := f32Mag_hasForm g
  obtain ⟨m, e, hdouble⟩ := hform.double
  have hprod : f32Mag g * f32Mag 0x40000000 = 2 ^ 149 * (2 * f32Mag g) := by
    rw [f32Mag_two]
    ring
  have hsign : (f32Sign g ^^ f32Sign 0x40000000) = f32Sign g := Bool.xor_false _
  rw [f32Mul_of_isFinite hg (by decide), hprod, hsign] at hfin ⊢
  rw [f32Mag_roundQuotient _ _ (by positivity) hfin, hdouble.quantumExp_eq (by positivity),
    hdouble.roundedSignificand_eq (by positivity)]
  obtain ⟨hmag, -⟩ := hdouble
  exact ⟨f32Sign_pattern _ (roundQuotient_lt _ _), hmag.symm⟩

/-- Above the subnormals, a doubled result is spaced twice as far apart. -/
theorem quantumExp_double {n d : Nat} (hd : 0 < d) (hn : 2 ^ 23 * d ≤ n) :
    quantumExp (2 * n) d = quantumExp n d + 1 := by
  have hlog : Nat.log 2 (n / d) = Nat.log 2 (2 * n / d) - 1 := by
    rw [← Nat.log_div_base, Nat.div_div_eq_div_mul, mul_comm d, Nat.mul_div_mul_left _ _ two_pos]
  have hnormal : 23 ≤ Nat.log 2 (n / d) :=
    Nat.le_log_of_pow_le one_lt_two ((Nat.le_div_iff_mul_le hd).mpr hn)
  simp only [quantumExp, roundShift, Nat.log2_eq_log_two]
  omega

theorem roundHalfEven_double (n d : Nat) : roundHalfEven (2 * n) (2 * d) = roundHalfEven n d := by
  have hmod : 2 * n % (2 * d) = 2 * (n % d) := Nat.mul_mod_mul_left 2 n d
  have hdiv : 2 * n / (2 * d) = n / d := Nat.mul_div_mul_left n d two_pos
  simp only [roundHalfEven, hmod, hdiv, Nat.mul_lt_mul_left two_pos, Nat.mul_right_inj two_ne_zero]

/-- Above the subnormals, a doubled result is rounded to twice the rounded one, if it is finite. -/
theorem val_roundQuotient_double (s : Bool) {n d : Nat} (hd : 0 < d) (hn : 2 ^ 23 * d ≤ n)
    (hfin : isFinite (f32Pattern s (roundQuotient (2 * n) d)) = true) :
    val (f32Pattern s (roundQuotient (2 * n) d)) = 2 * val (f32Pattern s (roundQuotient n d)) := by
  have hexp := quantumExp_double hd hn
  have hsig : roundedSignificand (2 * n) d = roundedSignificand n d := by
    rw [roundedSignificand, hexp, pow_succ', mul_left_comm, roundHalfEven_double, roundedSignificand]
  have hfin' : isFinite (f32Pattern s (roundQuotient n d)) = true := by
    rw [isFinite_roundQuotient, roundQuotient_eq, min_lt_iff, or_iff_left (lt_irrefl _)] at hfin ⊢
    rw [hexp, hsig] at hfin
    linarith
  rw [val_roundQuotient s _ hd hfin, val_roundQuotient s _ hd hfin', hexp, hsig, signedUnits_eq_mul,
    signedUnits_eq_mul s (_ * _)]
  ring

theorem val_zero (s : Bool) : val (f32Pattern s 0) = 0 := by
  rw [val_eq_signedUnits, (isZero_iff _).mp (isZero_f32Pattern s)]
  simp [signedUnits]

theorem val_mul_val_eq_zero_iff (a b : Word) : val a * val b = 0 ↔ f32Mag a * f32Mag b = 0 := by
  have hval : ∀ c, val c = 0 ↔ f32Mag c = 0 := fun c => by
    rw [val_eq_signedUnits, signedUnits_eq_mul, mul_eq_zero_iff_right (signedUnits_one_ne_zero _), Nat.cast_eq_zero]
  rw [mul_eq_zero, mul_eq_zero, hval, hval]

/-- An exact product of at least 2^-126 is one above the subnormals. -/
theorem normal_of_le_abs_product {a b : Word} (h : (2 : ℚ) ^ (-126 : ℤ) ≤ |val a * val b|) :
    2 ^ 23 * 2 ^ 149 ≤ f32Mag a * f32Mag b := by
  rw [val_mul_val, abs_signedUnits _ (by positivity)] at h
  have hbound : (2 : ℚ) ^ (-126 : ℤ) = 2 ^ 23 * 2 ^ (-149 : ℤ) := by norm_num
  rw [hbound, mul_le_mul_iff_left₀ (by positivity), le_div_iff₀ (by positivity)] at h
  exact_mod_cast h

/-- Settles O57: doubling the gain is exact, and doubles the exact product that is rounded. -/
theorem doublingTheGainDoublesTheProduct : Obligations.DoublingTheGainDoublesTheProduct := by
  intro s g hs hg hfin h
  obtain ⟨hsign, hmag⟩ := f32Mul_two hg hfin
  generalize f32Mul g 0x40000000 = g' at *
  have hprod : f32Mag s * f32Mag g' = 2 * (f32Mag s * f32Mag g) := by rw [hmag]; ring
  rcases h with hzero | ⟨hnormal, hfin'⟩
  · rw [val_mul_val_eq_zero_iff] at hzero
    rw [f32Mul_of_mag_eq_zero hs hg hzero, f32Mul_of_mag_eq_zero hs hfin (by rw [hprod, hzero]), val_zero, val_zero,
      mul_zero]
  · rw [f32Mul_of_isFinite hs hfin, hprod, hsign] at hfin' ⊢
    rw [f32Mul_of_isFinite hs hg]
    exact val_roundQuotient_double _ (by positivity) (normal_of_le_abs_product hnormal) hfin'

/-! ### Products with 1 and with zeros -/

theorem f32Mag_one : f32Mag 0x3F800000 = 2 ^ 149 := by decide

theorem f32Mul_one_left {g : Word} (hg : isFinite g = true) : f32Mul 0x3F800000 g = g := by
  have hsign : (f32Sign 0x3F800000 ^^ f32Sign g) = f32Sign g := Bool.false_xor _
  rw [f32Mul_of_isFinite (by decide) hg, f32Mag_one, hsign, f32Pattern_round_f32Mag hg (by positivity)]

/-- A zero times a finite value. -/
theorem f32Mul_isZero_left {z g : Word} (hz : isZero z = true) (hg : isFinite g = true) :
    f32Mul z g = f32Pattern (f32Sign z ^^ f32Sign g) 0 :=
  f32Mul_of_mag_eq_zero (isFinite_of_isZero hz) hg (by rw [(isZero_iff z).mp hz, zero_mul])

/-- A tap of +0 under a finite gain passes the dry sample (R157 (a)). -/
theorem mix_zero_tap {x g : Word} (hg : isFinite g = true) (hx : isNaN x = false) (hne : x ≠ 0x80000000) :
    mix x 0x00000000 g = x :=
  mix_of_isZero_product (by rw [f32Mul_isZero_left (by decide) hg]; exact isZero_f32Pattern _) hx hne

/-- A tap of 1.0 beside silence comes out as the gain, +0 for a gain of -0 (R158). -/
theorem mix_one_tap {g : Word} (hg : isFinite g = true) :
    mix 0x00000000 0x3F800000 g = if g = 0x80000000 then 0x00000000 else g := by
  rw [mix, f32Mul_one_left hg]
  split
  · subst g
    decide
  · rw [f32Add_of_isFinite (by decide) hg, f32AddFinite_comm, f32AddFinite_isZero hg ‹_› (by decide),
      canon_of_not_isNaN (isNaN_eq_false_of_isFinite hg)]

/-- A dry sample of -0 beside a zero tap (R157 (b)). -/
theorem mix_negZero_zero_tap {z g : Word} (hz : isZero z = true) (hg : isFinite g = true) :
    mix 0x80000000 z g = f32Pattern (f32Sign z ^^ f32Sign g) 0 :=
  mix_negZero_of_product (f32Mul_isZero_left hz hg)

end Sys2Proof.Machine
end

section
/-! PROOFS. The delay line (spec/42_engine.md R152, R158, R160, R163): what a channel holds, from its cursor on,
followed by the samples to come, is one tape that a run of PROCESS_SAMPLE moves along and never rewrites. -/

namespace Sys2Proof.Machine

/-! ### The tape of a channel -/

/-- Channel `ch` holds the tape `f` from position `w` on: `f i` is the cell `i` places ahead, around the buffer. -/
def Block.Holds (b : Block) (ch : Nat) (w : Word) (f : Nat → Word) : Prop :=
  ∀ i < b.capacity.toNat, b.readCell ch ((w.toNat + i) % b.capacity.toNat : ℕ) = some (f i)

/-- The modular difference of R152, without a subtraction that can go below 0. -/
theorem natCast_tap_index {d cap : Nat} (w k : Nat) (hd : d ≤ cap) :
    (((w + (k + (cap - d))) % cap : ℕ) : ℤ) = ((w : ℤ) + k - d) % cap := by
  have hsum : ((w + (k + (cap - d)) : ℕ) : ℤ) = (w : ℤ) + k - d + cap := by omega
  rw [Int.natCast_emod, hsum, Int.add_emod_right]

theorem add_mod_ne_self {w k cap : Nat} (hw : w < cap) (hk : 0 < k) (hcap : k < cap) : (w + k) % cap ≠ w := by
  rcases Nat.lt_or_ge (w + k) cap with h | h
  · rw [Nat.mod_eq_of_lt h]
    omega
  · rw [Nat.mod_eq_sub_mod h, Nat.mod_eq_of_lt (by omega)]
    omega

@[simp] theorem Block.afterSample_capacity (b : Block) (ch : Nat) (w x : Word) :
    (b.afterSample ch w x).capacity = b.capacity := rfl

section
variable {b : Block} {ch : Nat} {w : Word} {f : Nat → Word} (h : b.Holds ch w f)
include h

/-- In the first `d` samples of a run the tap is a cell of the buffer. -/
theorem Block.Holds.readCell_tap {d k : Nat} (hk : k < d) (hd : d ≤ b.capacity.toNat) :
    b.readCell ch (((w.toNat : ℤ) + k - d) % b.capacity.toNat) = some (f (k + (b.capacity.toNat - d))) := by
  rw [← natCast_tap_index w.toNat k hd]
  exact h _ (by omega)

/-- Every cell of the buffer is on the tape. -/
theorem Block.Holds.exists_readCell {j : ℤ} (hj : 0 ≤ j) (hcap : j < b.capacity.toNat) :
    ∃ i < b.capacity.toNat, b.readCell ch j = some (f i) := by
  have hpos : (0 : ℤ) < b.capacity.toNat := hj.trans_lt hcap
  have hnonneg := Int.emod_nonneg (j - w.toNat) hpos.ne'
  have hlt := Int.emod_lt_of_pos (j - w.toNat) hpos
  obtain ⟨i, hi⟩ := Int.eq_ofNat_of_zero_le hnonneg
  have hindex : (((w.toNat + i) % b.capacity.toNat : ℕ) : ℤ) = j := by
    rw [Int.natCast_emod, Int.natCast_add, ← hi, Int.add_emod_emod, add_sub_cancel, Int.emod_eq_of_lt hj hcap]
  exact ⟨i, by omega, hindex ▸ h i (by omega)⟩

/-- A sample stored at the cursor is the next entry of the tape, seen from the advanced cursor. -/
theorem Block.Holds.afterSample (hwf : Memory.wf b.rb) (hw : w.toNat < b.capacity.toNat)
    (hcell : b.hasCell ch w.toNat = true) :
    (b.afterSample ch w (f b.capacity.toNat)).Holds ch (advanceCursor b.capacity w) fun i => f (i + 1) := by
  intro i hi
  rw [Block.afterSample_capacity] at hi ⊢
  rw [advanceCursor_toNat hw, Nat.mod_add_mod, Nat.add_assoc, Nat.add_comm 1]
  rcases Nat.lt_or_ge (i + 1) b.capacity.toNat with hlt | hge
  · have hother := add_mod_ne_self hw i.succ_pos hlt
    rw [Block.afterSample_readCell_other _ (.inr (by exact_mod_cast hother))]
    exact h (i + 1) hlt
  · have hlast : i + 1 = b.capacity.toNat := by omega
    simp only [hlast, Nat.add_mod_right, Nat.mod_eq_of_lt hw]
    exact Block.afterSample_readCell_same hwf hcell _

end

/-- The tape of a ready channel before the samples `xs`: its cells from position `w` on, then the samples. -/
def State.tape (s : State) (ch : Field8) (w : Word) (xs : List Word) (i : Nat) : Word :=
  if i < s.blk.capacity.toNat then s.blk.rb.read (cellKey ch.toNat ((w.toNat + i) % s.blk.capacity.toNat))
  else xs.getD (i - s.blk.capacity.toNat) 0

theorem State.Admits.holds_tape {s : State} {ch : Field8} (h : s.Admits ch) (w : Word) (xs : List Word) :
    s.blk.Holds ch.toNat w (s.tape ch w xs) := by
  intro i hi
  rw [Block.readCell_of_hasCell (h.hasCell_of_lt (Nat.mod_lt _ (by omega))), State.tape, if_pos hi, Int.toNat_natCast]

/-- From place `n` on the tape `f` holds the samples `xs`. -/
def Feeds (f : Nat → Word) (n : Nat) (xs : List Word) : Prop := ∀ k x, xs[k]? = some x → f (n + k) = x

theorem State.feeds_tape (s : State) (ch : Field8) (w : Word) (xs : List Word) :
    Feeds (s.tape ch w xs) s.blk.capacity.toNat xs := by
  intro k x hx
  simp [State.tape, hx]

theorem feeds_cons {f : Nat → Word} {n : Nat} {x : Word} {xs : List Word} :
    Feeds f n (x :: xs) ↔ f n = x ∧ Feeds (fun i => f (i + 1)) n xs := by
  refine ⟨fun h => ⟨h 0 x rfl, fun k y hy => h (k + 1) y hy⟩, fun ⟨hx, hxs⟩ k y hy => ?_⟩
  cases k with
  | zero => exact hx.trans (Option.some.inj hy)
  | succ k => exact hxs k y hy

theorem feeds_replicate {f : Nat → Word} {n m : Nat} {x : Word} (h : ∀ k < m, f (n + k) = x) :
    Feeds f n (List.replicate m x) := by
  intro k y hy
  obtain ⟨hk, rfl⟩ : k < m ∧ x = y := by simpa [List.getElem?_replicate] using hy
  exact h k hk

/-! ### A run of PROCESS_SAMPLE -/

/-- The answers to the samples `xs` where sample `k` meets the tap `tap k`. -/
def mixedRun (g : Word) (tap : Nat → Word) (xs : List Word) : List Word := xs.mapIdx fun k x => mix x (tap k) g

theorem mixedRun_cons (g : Word) (tap : Nat → Word) (x : Word) (xs : List Word) :
    mixedRun g tap (x :: xs) = mix x (tap 0) g :: mixedRun g (fun k => tap (k + 1)) xs :=
  List.mapIdx_cons

theorem mixedRun_replicate {g x y : Word} {tap : Nat → Word} {n : Nat} (h : ∀ k < n, mix x (tap k) g = y) :
    mixedRun g tap (List.replicate n x) = List.replicate n y := by
  refine List.eq_replicate_iff.mpr ⟨by simp [mixedRun], fun z hz => ?_⟩
  obtain ⟨k, hk, rfl⟩ := List.mem_mapIdx.mp hz
  rw [List.length_replicate] at hk
  rw [List.getElem_replicate, h k hk]

theorem length_mixedRun (g : Word) (tap : Nat → Word) (xs : List Word) : (mixedRun g tap xs).length = xs.length :=
  List.length_mapIdx

theorem getElem?_mixedRun {g x : Word} {tap : Nat → Word} {xs : List Word} {k : Nat} (h : xs[k]? = some x) :
    (mixedRun g tap xs)[k]? = some (mix x (tap k) g) := by
  rw [mixedRun, List.getElem?_mapIdx, h, Option.map_some]

/-- A latched delay is at least one sample and at most the buffer (10_state.md R32). -/
theorem delaySamples_bounds {s : State} {ch : Field8} (hinv : s.Inv) (hready : s.readyFor ch) :
    1 ≤ s.blk.delaySamples.toNat ∧ s.blk.delaySamples.toNat ≤ s.blk.capacity.toNat := by
  obtain ⟨-, -, -, ⟨-, -, hdelay, -⟩, -⟩ := hinv
  obtain ⟨-, -, -, hvalid, hbypass⟩ := hready
  exact hdelay hvalid hbypass

/-- What one PROCESS_SAMPLE on a ready channel does to its tape: the tap is `DELAY_SAMPLES` places before the sample,
and the channel moves on by one place. -/
theorem exec_processSample_holds {s : State} {ch : Field8} {w : Word} {f : Nat → Word} (hinv : s.Inv)
    (hready : s.readyFor ch) (hcur : s.blk.cursor ch.toNat = some w) (hholds : s.blk.Holds ch.toNat w f) :
    exec (.processSample ch (f s.blk.capacity.toNat)) s =
        .next (respond (mix (f s.blk.capacity.toNat) (f (s.blk.capacity.toNat - s.blk.delaySamples.toNat))
            s.blk.gainLatched)
          { s with blk := s.blk.afterSample ch.toNat w (f s.blk.capacity.toNat) }) ∧
      (s.blk.afterSample ch.toNat w (f s.blk.capacity.toNat)).Holds ch.toNat (advanceCursor s.blk.capacity w)
        fun i => f (i + 1) := by
  obtain ⟨tap, htap, hexec⟩ := exec_processSample_of_ready hinv hready hcur (f s.blk.capacity.toNat)
  have hadm := State.readyFor.admits hready
  obtain ⟨hone, hcap⟩ := delaySamples_bounds hinv hready
  obtain ⟨-, ⟨hwf, -⟩, hcursor, -⟩ := hinv
  have hw := hcursor.lt_capacity hcur
  have htape := hholds.readCell_tap (k := 0) hone hcap
  rw [Nat.cast_zero, add_zero, zero_add, htap] at htape
  rw [← Option.some.inj htape]
  exact ⟨hexec, hholds.afterSample hwf hw (hadm.hasCell_of_lt hw)⟩

/-- A run of PROCESS_SAMPLE answers the mix of each sample with the entry `DELAY_SAMPLES` places before it on the tape,
and leaves the channel holding the same tape, further on. -/
theorem execAll_processSample {ch : Field8} (xs : List Word) :
    ∀ {s : State} {w : Word} {f : Nat → Word}, s.Inv → s.readyFor ch → s.blk.cursor ch.toNat = some w →
      s.blk.Holds ch.toNat w f → Feeds f s.blk.capacity.toNat xs →
      ∃ t w', execAll (xs.map (.processSample ch)) s = .next t ∧
        t.env.respA = s.env.respA ++
          (mixedRun s.blk.gainLatched (fun k => f (k + (s.blk.capacity.toNat - s.blk.delaySamples.toNat))) xs).map
            (fun y => ⟨0, y⟩) ∧
        t.blk.capacity = s.blk.capacity ∧ t.blk.Holds ch.toNat w' fun i => f (i + xs.length) := by
  induction xs with
  | nil => exact fun {s w f} _ _ _ hholds _ => ⟨s, w, rfl, (List.append_nil _).symm, rfl, hholds⟩
  | cons x xs ih =>
    intro s w f hinv hready hcur hholds hfeeds
    have ⟨hport, _⟩ := hready
    obtain ⟨rfl, hrest⟩ := feeds_cons.mp hfeeds
    obtain ⟨hexec, hholds'⟩ := exec_processSample_holds hinv hready hcur hholds
    have hcur' := Block.setCursor_cursor_same hcur (advanceCursor s.blk.capacity w)
    obtain ⟨t, w', hrun, hresp, hcap, hlast⟩ :=
      ih (exec_keeps_inv hexec hinv) hready hcur' hholds' hrest
    refine ⟨t, w', (execAll_cons hexec _).trans hrun, ?_, hcap, ?_⟩
    · rw [hresp, mixedRun_cons, respond_env, answer_of_port_a hport, List.append_assoc]
      simp only [add_right_comm _ _ 1, zero_add]
      rfl
    · simpa only [List.length_cons, ← add_assoc] using hlast

/-- Settles O43: the entry `DELAY_SAMPLES` places before a sample is an earlier sample or a cell. -/
theorem processedRunIsADelayLine : Obligations.ProcessedRunIsADelayLine := by
  intro s ch xs w0 hinv hready hcur
  have hholds := (State.readyFor.admits hready).holds_tape w0 xs
  have hfeeds := s.feeds_tape ch w0 xs
  obtain ⟨-, hd⟩ := delaySamples_bounds hinv hready
  obtain ⟨t, -, hrun, hresp, -, -⟩ := execAll_processSample xs hinv hready hcur hholds hfeeds
  refine ⟨t, _, hrun, hresp, length_mixedRun .., fun k x hx => ⟨_, getElem?_mixedRun hx, ?_⟩⟩
  obtain ⟨hk, -⟩ := List.getElem?_eq_some_iff.mp hx
  split
  · rename_i hdk
    have hearlier := List.getElem?_eq_getElem (show k - s.blk.delaySamples.toNat < xs.length by omega)
    have hplace : s.blk.capacity.toNat + (k - s.blk.delaySamples.toNat) =
        k + (s.blk.capacity.toNat - s.blk.delaySamples.toNat) := by omega
    rw [hearlier, ← hfeeds _ _ hearlier, hplace]
  · rename_i hkd
    exact hholds.readCell_tap (Nat.lt_of_not_le hkd) hd

/-! ### Runs on a silent channel (R158, R160) -/

/-- Every cell of channel `ch` is +0. -/
def Block.Silent (b : Block) (ch : Nat) : Prop :=
  ∀ j : ℤ, 0 ≤ j → j < b.capacity.toNat → b.readCell ch j = some 0x00000000

theorem Block.Silent.holds {b : Block} {ch : Nat} (h : b.Silent ch) (w : Word) {f : Nat → Word}
    (hf : ∀ i < b.capacity.toNat, f i = 0x00000000) : b.Holds ch w f := by
  intro i hi
  have hlt : (w.toNat + i) % b.capacity.toNat < b.capacity.toNat := Nat.mod_lt _ (by omega)
  rw [h _ (Int.natCast_nonneg _) (by exact_mod_cast hlt), hf i hi]

/-- A run on a ready channel whose cells are +0, for any tape that begins with them. -/
theorem execAll_of_silent {s : State} {ch : Field8} (hinv : s.Inv) (hready : s.readyFor ch)
    (hsilent : s.blk.Silent ch.toNat) {xs : List Word} {f : Nat → Word}
    (hf : ∀ i < s.blk.capacity.toNat, f i = 0x00000000) (hfeeds : Feeds f s.blk.capacity.toNat xs) :
    ∃ t, execAll (xs.map (.processSample ch)) s = .next t ∧
      t.env.respA = s.env.respA ++
        (mixedRun s.blk.gainLatched (fun k => f (k + (s.blk.capacity.toNat - s.blk.delaySamples.toNat))) xs).map
          (fun y => ⟨0, y⟩) ∧
      ∀ j : ℤ, 0 ≤ j → j < s.blk.capacity.toNat →
        ∃ i < s.blk.capacity.toNat, t.blk.readCell ch.toNat j = some (f (i + xs.length)) := by
  have ⟨_, _, hcursor, _⟩ := hinv
  obtain ⟨w, hcur, -⟩ := hcursor.exists_cursor (State.readyFor.admits hready).channel
  obtain ⟨t, w', hrun, hresp, hcap, hholds⟩ :=
    execAll_processSample xs hinv hready hcur (hsilent.holds w hf) hfeeds
  exact ⟨t, hrun, hresp, fun j hj hlt => hcap ▸ hholds.exists_readCell hj (hcap.symm ▸ hlt)⟩

/-- The tape of the impulse response: +0 everywhere, but 1.0 at place `cap`. -/
def impulseTape (cap i : Nat) : Word := if i = cap then 0x3F800000 else 0x00000000

theorem feeds_impulseTape (cap n : Nat) :
    Feeds (impulseTape cap) cap (0x3F800000 :: List.replicate n 0x00000000) :=
  feeds_cons.mpr ⟨if_pos rfl, feeds_replicate fun k _ => if_neg (by omega)⟩

theorem impulseTape_tap {cap d : Nat} (hd : d ≤ cap) (k : Nat) :
    impulseTape cap (k + (cap - d)) = if k = d then 0x3F800000 else 0x00000000 :=
  if_congr (by omega) rfl rfl

/-- Settles O44: the impulse is on the tape once, and sample `k` meets it as its tap for `k` the delay alone. -/
theorem impulseComesBackOnceScaledByTheGain : Obligations.ImpulseComesBackOnceScaledByTheGain := by
  intro s ch n hinv hready hg hsilent
  obtain ⟨hone, hd⟩ := delaySamples_bounds hinv hready
  obtain ⟨t, hrun, hresp, -⟩ := execAll_of_silent hinv hready hsilent (f := impulseTape s.blk.capacity.toNat)
    (fun i hi => if_neg hi.ne) (feeds_impulseTape _ n)
  simp only [impulseTape_tap hd] at hresp
  refine ⟨t, _, hrun, hresp, by simp [length_mixedRun], fun k hk => ?_⟩
  cases k with
  | zero =>
    rw [getElem?_mixedRun rfl, if_neg (by omega), mix_zero_tap hg (by decide) (by decide)]
    rfl
  | succ k =>
    have hx : (0x3F800000 :: List.replicate n (0x00000000 : Word))[k + 1]? = some 0x00000000 := by
      rw [List.getElem?_cons_succ, List.getElem?_replicate, if_pos (by omega)]
    rw [getElem?_mixedRun hx, if_neg k.succ_ne_zero]
    by_cases hkd : k + 1 = s.blk.delaySamples.toNat
    · rw [if_pos hkd, mix_one_tap hg]
      simp only [hkd, true_and, ite_not]
    · rw [if_neg hkd, mix_zero_tap hg (by decide) (by decide), if_neg fun ⟨h, _⟩ => hkd h]

/-- The tape of a run of -0 inputs on a channel of +0 cells: zeros, negative from place `cap` on. -/
def negZeroTape (cap i : Nat) : Word := f32Pattern (decide (cap ≤ i)) 0

theorem negZeroTape_of_lt {cap i : Nat} (h : i < cap) : negZeroTape cap i = 0x00000000 := by
  rw [negZeroTape, decide_eq_false (Nat.not_le.mpr h)]
  rfl

theorem negZeroTape_of_le {cap i : Nat} (h : cap ≤ i) : negZeroTape cap i = 0x80000000 := by
  rw [negZeroTape, decide_eq_true h]
  rfl

/-- The mix of -0 with a tap of this tape is -0 if the signs of tap and gain differ, and +0 if not (R157 (b)). -/
theorem mix_negZeroTape {cap d : Nat} (hd : d ≤ cap) {g : Word} (hg : isFinite g = true) (k : Nat) :
    mix 0x80000000 (negZeroTape cap (k + (cap - d))) g =
      if f32Sign g = decide (d ≤ k) then 0x00000000 else 0x80000000 := by
  have hplace : cap ≤ k + (cap - d) ↔ d ≤ k := by omega
  rw [negZeroTape, decide_eq_decide.mpr hplace, mix_negZero_zero_tap (isZero_f32Pattern _) hg,
    f32Sign_pattern _ (by norm_num)]
  cases f32Sign g <;> cases decide (d ≤ k) <;> rfl

/-- Settles O45: the tape holds zeros alone, +0 in the cells and the inputs' zero from there on. -/
theorem silenceStaysSilent : Obligations.SilenceStaysSilent := by
  intro s ch n hinv hready hg hsilent
  obtain ⟨-, hd⟩ := delaySamples_bounds hinv hready
  constructor
  · obtain ⟨t, hrun, hresp, hcells⟩ := execAll_of_silent hinv hready hsilent (xs := List.replicate n 0x00000000)
      (f := fun _ => 0x00000000) (fun _ _ => rfl) (feeds_replicate fun _ _ => rfl)
    rw [List.map_replicate] at hrun
    rw [mixedRun_replicate fun _ _ => mix_zero_tap hg (by decide) (by decide), List.map_replicate] at hresp
    refine ⟨t, hrun, hresp, fun j hj hcap => ?_⟩
    obtain ⟨-, -, hcell⟩ := hcells j hj hcap
    exact hcell
  · obtain ⟨t, hrun, hresp, hcells⟩ := execAll_of_silent hinv hready hsilent (xs := List.replicate n 0x80000000)
      (f := negZeroTape s.blk.capacity.toNat) (fun _ => negZeroTape_of_lt)
      (feeds_replicate fun _ _ => negZeroTape_of_le (Nat.le_add_right _ _))
    rw [List.map_replicate] at hrun
    refine ⟨t, _, hrun, hresp, by simp [length_mixedRun], fun k hk => ?_, fun j hj hcap => ?_⟩
    · have hx : (List.replicate n (0x80000000 : Word))[k]? = some 0x80000000 := by
        rw [List.getElem?_replicate, if_pos hk]
      rw [getElem?_mixedRun hx, mix_negZeroTape hd hg]
    · obtain ⟨i, -, hcell⟩ := hcells j hj hcap
      refine ⟨_, hcell, isZero_f32Pattern _, fun hn => negZeroTape_of_le ?_⟩
      rw [List.length_replicate]
      exact le_add_left hn

end Sys2Proof.Machine
end

section
/-! PROOFS. Channels cannot see one another (spec/42_engine.md R161): in states alike to a channel, a command on it is
rejected alike or succeeds by the same update, and both leave the states alike. -/

namespace Sys2Proof.Machine

/-! ### Rejections -/

/-- Where `k` rejects in state `s`, `k'` rejects in state `s'` with the same error. -/
def RejectsAlike (s s' : State) (k k' : Result) : Prop :=
  ∀ e, k = .next (raiseError e s) → k' = .next (raiseError e s')

/-- Errors with the same code are rejected alike. -/
theorem raiseError_congr {e e' : ErrorCode} (h : e.code = e'.code) (s : State) : raiseError e s = raiseError e' s := by
  simp only [raiseError, Block.recordError, h]

theorem reject_rejectsAlike (e : ErrorCode) (s s' : State) : RejectsAlike s s' (reject e s) (reject e s') := by
  intro e' h
  have hcode : e'.code = e.code := congrArg Response.status (answer_inj (congrArg State.env (next_inj h)))
  rw [reject, raiseError_congr hcode]

/-- An outcome that is no rejection, whatever the other is. -/
theorem rejectsAlike_of_ne {s s' : State} {k k' : Result} (h : ∀ e, k ≠ .next (raiseError e s)) :
    RejectsAlike s s' k k' :=
  fun e he => absurd he (h e)

theorem respond_ne_raiseError (v : Word) (s : State) (b : Block) (e : ErrorCode) :
    (.next (respond v { s with blk := b }) : Result) ≠ .next (raiseError e s) :=
  fun h => raiseError_env_ne e s v (congrArg State.env (next_inj h))

theorem orFault_ne_raiseError {α : Type} {o : Option α} {f : Fault} {k : α → Result} {s : State} {e : ErrorCode}
    (h : ∀ x, k x ≠ .next (raiseError e s)) : orFault o f k ≠ .next (raiseError e s) := by
  intro heq
  obtain ⟨x, -, hx⟩ := orFault_next heq
  exact h x hx

section
variable {ch : Field8} {s s' : State} (h : State.alikeFor ch s s') {k k' : Result}
include h

/-- The checks all channel commands begin with read nothing but what the channel sees. -/
theorem requireAdmitted_rejectsAlike (hk : RejectsAlike s s' k k') :
    RejectsAlike s s' (requireAdmitted ch s k) (requireAdmitted ch s' k') := by
  obtain ⟨-, hport, hses, -, hcount, -⟩ := h
  simp only [requireAdmitted, requirePortA, requireSession, requireChannel, hport, hses, hcount]
  split
  · exact reject_rejectsAlike _ s s'
  split
  · exact reject_rejectsAlike _ s s'
  split
  · exact reject_rejectsAlike _ s s'
  · exact hk

theorem requireBlock_rejectsAlike (hk : RejectsAlike s s' k k') :
    RejectsAlike s s' (requireBlock s k) (requireBlock s' k') := by
  simp only [requireBlock, h.blockValid]
  split
  · exact hk
  · exact reject_rejectsAlike _ s s'

theorem requireIndex_rejectsAlike (i : Nat) (hk : RejectsAlike s s' k k') :
    RejectsAlike s s' (requireIndex i s k) (requireIndex i s' k') := by
  simp only [requireIndex, h.capacity]
  split
  · exact reject_rejectsAlike _ s s'
  · exact hk

/-- A command on a channel is rejected alike in states alike to the channel: past its checks it rejects nothing. -/
theorem exec_rejectsAlike {i : Instr} (hch : channelTaken i = some ch) : RejectsAlike s s' (exec i s) (exec i s') := by
  cases i with
  | nop | prepare | release | setDelayMs | setWetGain | beginBlock | readReg | clearErr => cases hch
  | processSample c x =>
    cases hch
    refine requireAdmitted_rejectsAlike h (requireBlock_rejectsAlike h (rejectsAlike_of_ne fun e => ?_))
    split
    · exact respond_ne_raiseError x s s.blk e
    · exact orFault_ne_raiseError fun _ => orFault_ne_raiseError fun _ => orFault_ne_raiseError fun _ =>
        respond_ne_raiseError _ s _ e
  | storeRead c j =>
    cases hch
    refine requireAdmitted_rejectsAlike h (requireIndex_rejectsAlike h _ (rejectsAlike_of_ne fun e => ?_))
    exact orFault_ne_raiseError fun v => respond_ne_raiseError v s s.blk e
  | storeWrite c j v =>
    cases hch
    refine requireAdmitted_rejectsAlike h (requireIndex_rejectsAlike h _ (rejectsAlike_of_ne fun e => ?_))
    exact orFault_ne_raiseError fun _ => respond_ne_raiseError _ s _ e
  | storeAdvance c =>
    cases hch
    refine requireAdmitted_rejectsAlike h (rejectsAlike_of_ne fun e => ?_)
    exact orFault_ne_raiseError fun _ => respond_ne_raiseError _ s _ e
  | getCursor c =>
    cases hch
    refine requireAdmitted_rejectsAlike h (rejectsAlike_of_ne fun e => ?_)
    exact orFault_ne_raiseError fun w => respond_ne_raiseError w s s.blk e
  | getReadCursor c =>
    cases hch
    refine requireAdmitted_rejectsAlike h (requireBlock_rejectsAlike h (rejectsAlike_of_ne fun e => ?_))
    exact orFault_ne_raiseError fun w => respond_ne_raiseError _ s s.blk e

/-! ### States left alike -/

/-- A rejection is no part of what a channel sees. -/
theorem State.alikeFor.raiseError (e : ErrorCode) : State.alikeFor ch (raiseError e s) (raiseError e s') := h

/-- A cursor written is the same in alike states, if the channel has one. -/
theorem State.alikeFor.update_cursor (u : ChannelUpdate) :
    (s.blk.update ch.toNat u).cursor ch.toNat = (s'.blk.update ch.toNat u).cursor ch.toNat := by
  have hcur : s'.blk.wcur[ch.toNat]? = s.blk.wcur[ch.toNat]? := h.cursor
  obtain ⟨cell, _ | w⟩ := u
  · exact hcur.symm
  · simp only [Block.cursor, Block.update, List.getElem?_set_self', hcur]

/-- A cell written is the same in alike states, if it exists, and so is every other cell of the channel. -/
theorem State.alikeFor.update_readCell (hwf : Memory.wf s.blk.rb) (hwf' : Memory.wf s'.blk.rb) (u : ChannelUpdate)
    (j : Int) : (s.blk.update ch.toNat u).readCell ch.toNat j = (s'.blk.update ch.toNat u).readCell ch.toNat j := by
  obtain ⟨_ | ⟨i, v⟩, w⟩ := u
  · exact (h.readCell j).symm
  rcases eq_or_ne j i.toNat with rfl | hne
  · have hcell := h.hasCell ch.toNat i.toNat
    cases hhas : s.blk.hasCell ch.toNat i.toNat with
    | true =>
      exact (Block.readCell_write_same hwf hhas v).trans (Block.readCell_write_same hwf' (hcell.trans hhas) v).symm
    | false =>
      exact (if_neg (Bool.eq_false_iff.mp hhas)).trans (if_neg (Bool.eq_false_iff.mp (hcell.trans hhas))).symm
  · exact (Block.readCell_write_other (b := s.blk) i.isLt v (.inr hne)).trans ((h.readCell j).symm.trans
      (Block.readCell_write_other (b := s'.blk) i.isLt v (.inr hne)).symm)

/-- The same update leaves states alike to the channel updated. -/
theorem State.alikeFor.update (hwf : Memory.wf s.blk.rb) (hwf' : Memory.wf s'.blk.rb) (v : Word) (u : ChannelUpdate) :
    State.alikeFor ch (respond v { s with blk := s.blk.update ch.toNat u })
      (respond v { s' with blk := s'.blk.update ch.toNat u }) := by
  have hcursor := h.update_cursor u
  have hread := h.update_readCell hwf hwf' u
  obtain ⟨hcfg, hport, hses, hrate, hcount, hcap, hvalid, hbypass, hdelay, hgain, -, -⟩ := h
  exact ⟨hcfg, hport, hses, hrate, hcount, hcap, hvalid, hbypass, hdelay, hgain, hcursor, hread⟩

end

/-- Settles O49: a rejection is alike by its checks, and a success is the same update of the channel. -/
theorem aChannelCannotSeeTheOthers : Obligations.AChannelCannotSeeTheOthers := by
  rintro i c s s' t r ⟨-, ⟨hwf, -⟩, -⟩ ⟨-, ⟨hwf', -⟩, -⟩ hch h hexec henv
  rcases exec_next hexec with ⟨e, -, rfl⟩ | ⟨rfl, -⟩ | ⟨v, b, rfl, -, -⟩
  · obtain rfl : (⟨e.code, 0⟩ : Response) = r := answer_inj henv
    exact ⟨_, exec_rejectsAlike h hch e hexec, rfl, h.raiseError e⟩
  · cases hch
  · obtain rfl : (⟨0, v⟩ : Response) = r := answer_inj henv
    obtain ⟨u, ht, hlocal⟩ := exec_exists_update hch hexec rfl
    rw [ht]
    exact ⟨_, hlocal s' h, rfl, h.update hwf hwf' v u⟩

end Sys2Proof.Machine
end

section
/-! PROOFS. The parameters (spec/43_parameters.md): the setters store what they are given, and a command that is not
BEGIN_BLOCK, READ_REG or a setter reads neither parameter register. -/

namespace Sys2Proof.Machine

/-! ### The setters (R190, R191) -/

/-- A command that ignores `W1` is decoded from its encoding whatever `W1` holds (30_encoding.md R97). -/
theorem decode_encode_of_ignored_w1 {i : Instr} (hwf : i.WellFormed) (h1 : usesW1 i = false) (w1 : Word) :
    decode { encode i with w1 := w1 } = .legal i :=
  decode_legal_congr (decodeInvertsEncode i hwf) rfl (fun hused => absurd hused (by simp [h1])) fun _ => rfl

/-- Settles O26: the setters ignore `W1`, and they make no check. -/
theorem settersStoreThePattern : Obligations.SettersStoreThePattern := fun w1 v _ =>
  ⟨decode_encode_of_ignored_w1 (i := .setDelayMs v) rfl rfl w1,
    decode_encode_of_ignored_w1 (i := .setWetGain v) rfl rfl w1, rfl, rfl⟩

/-! ### Commands that read no parameter (R192, 70_reset_and_hazards.md R254) -/

/-- The state with both parameter registers replaced. -/
def State.withParameters (s : State) (d g : Word) : State :=
  { s with blk := { s.blk with delayMs := d, wetGain := g } }

/-- The parameters are no part of what a channel sees. -/
theorem State.alikeFor_withParameters (ch : Field8) (s : State) (d g : Word) :
    State.alikeFor ch s (s.withParameters d g) :=
  ⟨rfl, rfl, rfl, rfl, rfl, rfl, rfl, rfl, rfl, rfl, rfl, fun _ => rfl⟩

section
variable {s t : State} (d g : Word)

/-- A command on a channel is rejected alike with other parameters, and where it succeeds, its update of the channel
is the same. -/
theorem exec_withParameters_of_channelTaken {i : Instr} {ch : Field8} (hch : channelTaken i = some ch)
    (h : exec i s = .next t) : exec i (s.withParameters d g) = .next (t.withParameters d g) := by
  have halike := State.alikeFor_withParameters ch s d g
  rcases exec_next h with ⟨e, -, rfl⟩ | ⟨rfl, -⟩ | ⟨v, b, rfl, -, -⟩
  · exact exec_rejectsAlike halike hch e h
  · cases hch
  · obtain ⟨u, ht, hlocal⟩ := exec_exists_update hch h rfl
    rw [ht, hlocal _ halike]
    rfl

/-- The port check reads no parameter. -/
theorem requirePortA_withParameters {k k' : Result} (h : requirePortA s k = .next t)
    (hk : k = .next t → k' = .next (t.withParameters d g)) :
    requirePortA (s.withParameters d g) k' = .next (t.withParameters d g) := by
  rcases requirePortA_eq s k with ⟨hport, he⟩ | ⟨hport, he⟩ <;> rw [he] at h
  · rw [next_inj h]
    exact if_pos hport
  · exact (requirePortA_of (s := s.withParameters d g) hport k').trans (hk h)

/-- PREPARE's operand check reads the implementation parameters, and the session it starts keeps the registers. -/
theorem execPrepare_withParameters {n : Field8} {cap rate : Word} (h : execPrepare n cap rate s = .next t) :
    execPrepare n cap rate (s.withParameters d g) = .next (t.withParameters d g) := by
  refine requirePortA_withParameters d g h fun hk => ?_
  by_cases hrange : configOutOfRange s.cfg n cap rate = true
  · rw [if_pos hrange] at hk
    cases hk
    exact if_pos hrange
  · rw [if_neg hrange] at hk
    cases hk
    exact if_neg hrange

end

/-- Settles O46: a command on a channel sees no parameter, and the others read none by their definitions. -/
theorem parametersActOnlyThroughTheLatch : Obligations.ParametersActOnlyThroughTheLatch := by
  intro i s t d g h hbegin hread hdelay hgain
  change exec i (s.withParameters d g) = .next (t.withParameters d g)
  cases i with
  | beginBlock => exact absurd rfl hbegin
  | readReg n => exact absurd rfl (hread n)
  | setDelayMs v => exact absurd rfl (hdelay v)
  | setWetGain v => exact absurd rfl (hgain v)
  | nop => rw [execNop_next h]; rfl
  | prepare n cap rate => exact execPrepare_withParameters d g h
  | release | clearErr => exact requirePortA_withParameters d g h fun hk => by rw [next_inj hk]; rfl
  | processSample ch | storeRead ch | storeWrite ch | storeAdvance ch | getCursor ch | getReadCursor ch =>
    exact exec_withParameters_of_channelTaken d g (ch := ch) rfl h

end Sys2Proof.Machine
end

section
/-! PROOFS. The control commands (spec/44_control.md): NOP, RELEASE and CLEAR_ERR. -/

namespace Sys2Proof.Machine

/-! ### Commands without operands -/

/-- A command that ignores both operand words is decoded from its encoding whatever they hold (30_encoding.md R97). -/
theorem decode_encode_of_ignored_operands {i : Instr} (hwf : i.WellFormed) (h1 : usesW1 i = false)
    (h2 : usesW2 i = false) (w1 w2 : Word) : decode { encode i with w1 := w1, w2 := w2 } = .legal i :=
  decode_legal_congr (decode_encode_of_ignored_w1 hwf h1 w1) rfl (fun _ => rfl) fun hused =>
    absurd hused (by simp [h2])

/-- Settles O25: NOP ignores both operand words, and it makes no check. -/
theorem nopAnswersZero : Obligations.NopAnswersZero :=
  ⟨decode_encode_of_ignored_operands (i := .nop) rfl rfl rfl, fun _ => Succeeds.nop.exec_eq⟩

/-! ### RELEASE and CLEAR_ERR (R201, R203) -/

/-- Settles O29: on port A nothing stands between RELEASE and the end of the session. -/
theorem releaseEndsTheSession : Obligations.ReleaseEndsTheSession :=
  fun _ hport => (Succeeds.release hport).exec_eq

/-- The port check denies port C, whatever would follow (60_exceptions.md R230). -/
theorem requirePortA_of_portC {s : State} (h : s.env.port = .c) (k : Result) :
    requirePortA s k = .next (raiseError .portDenied s) :=
  if_pos h

/-- Settles O30: on port A CLEAR_ERR succeeds; on port C the denial is recorded as any rejection is (R223). -/
theorem clearErrClearsOnlyTheRecord : Obligations.ClearErrClearsOnlyTheRecord :=
  ⟨decode_encode_of_ignored_operands (i := .clearErr) rfl rfl rfl, fun _ =>
    ⟨fun hportA => (Succeeds.clearErr hportA).exec_eq, fun hportC => requirePortA_of_portC hportC _⟩⟩

end Sys2Proof.Machine
end

section
/-! PROOFS. Errors (spec/60_exceptions.md): a rejection changes the error record alone, of the errors that apply the
one with the lowest code is reported, and a command to which none applies succeeds. -/

namespace Sys2Proof.Machine

/-- Settles O16: with the invariant every command finds the cells and cursors it names. -/
theorem noStepStopsTheMachine : Obligations.NoStepStopsTheMachine := fun _ => step_progress

/-! ### What a step can leave of the command it takes (R222, R223) -/

/-- DELAY_RANGE is the one error with code 8 (R221). -/
theorem ErrorCode.code_ne_eight {e : ErrorCode} (h : e ≠ .delayRange) : e.code ≠ 8 := by
  cases e with
  | delayRange => exact absurd rfl h
  | illegalCmd | portDenied | notPrepared | badConfig | badChannel | noBlock | badIndex => decide

/-- What a step can do with the command it takes: a rejection that changes the record alone, BEGIN_BLOCK's
DELAY_RANGE, or a success that leaves the record alone unless the command is CLEAR_ERR. -/
theorem step_command_next {c : Command} {s u t : State} (hsel : select s = .command c u) (h : step s = .next t) :
    (∃ e, e ≠ .delayRange ∧ t = raiseError e u) ∨
      (decode c = .legal .beginBlock ∧ t = raiseError .delayRange { u with blk := u.blk.clearLatch }) ∨
      ∃ v b, t = respond v { u with blk := b } ∧
        (decode c ≠ .legal .clearErr → b.errCode = u.blk.errCode ∧ b.errMulti = u.blk.errMulti) ∧
        (decode c = .legal .clearErr → b.errCode = 0 ∧ b.errMulti = false) := by
  cases hdec : decode c with
  | illegal why =>
    rw [step_of_select_illegal hsel (by simp [hdec])] at h
    exact .inl ⟨.illegalCmd, by decide, next_inj h⟩
  | legal i =>
    rw [step_of_select_command hsel hdec] at h
    simpa only [ne_eq, Decoded.legal.injEq] using exec_next h

/-- Settles O20: the response tells which rejection it was, for DELAY_RANGE alone has code 8. -/
theorem rejectionChangesOnlyTheErrorRecord : Obligations.RejectionChangesOnlyTheErrorRecord := by
  intro c s u t r hsel hstep henv hrejected
  obtain ⟨hblk, hcfg, -⟩ := select_command_frame hsel
  rw [← hblk, ← hcfg]
  rcases step_command_next hsel hstep with ⟨e, he, rfl⟩ | ⟨hbegin, rfl⟩ | ⟨v, b, rfl, -, -⟩
  · obtain rfl : (⟨e.code, 0⟩ : Response) = r := answer_inj henv
    rw [if_neg (ErrorCode.code_ne_eight he)]
    exact ⟨rfl, rfl, rfl⟩
  · obtain rfl : (⟨8, 0⟩ : Response) = r := answer_inj henv
    exact ⟨rfl, rfl, hbegin, rfl⟩
  · obtain rfl : (⟨0, v⟩ : Response) = r := answer_inj henv
    exact absurd rfl hrejected

/-- An error recorded in a clear record becomes its code, and in any other it sets `ERR_MULTI` (R223). -/
theorem Block.recordError_record (b : Block) (e : ErrorCode) :
    if b.errCode = 0 then (b.recordError e).errCode = e.code ∧ (b.recordError e).errMulti = b.errMulti
    else (b.recordError e).errCode = b.errCode ∧ (b.recordError e).errMulti = true := by
  rw [Block.recordError_errCode, Block.recordError_errMulti]
  split <;> exact ⟨rfl, rfl⟩

/-- Settles O21: a rejection records its code, and of the successes CLEAR_ERR alone writes the record. -/
theorem firstErrorIsKeptUntilCleared : Obligations.FirstErrorIsKeptUntilCleared := by
  intro c s u t hsel hstep
  obtain ⟨hblk, -⟩ := select_command_frame hsel
  rw [← hblk]
  rcases step_command_next hsel hstep with ⟨e, -, rfl⟩ | ⟨-, rfl⟩ | ⟨v, b, rfl, hkept, hcleared⟩
  · refine ⟨⟨e.code, 0⟩, rfl, ?_⟩
    rw [if_neg e.code_ne_zero]
    exact u.blk.recordError_record e
  · refine ⟨⟨ErrorCode.delayRange.code, 0⟩, rfl, ?_⟩
    rw [if_neg (ErrorCode.code_ne_zero _)]
    exact u.blk.clearLatch.recordError_record .delayRange
  · refine ⟨⟨0, v⟩, rfl, ?_⟩
    rw [if_pos rfl]
    split
    case isTrue hclear => exact hcleared hclear
    case isFalse hother => exact hkept hother

/-! ### The checks in the order of R224

Each lemma says that a command to which an error applies is rejected with it, if no error of an earlier check does. -/

section
variable {i : Instr} {s : State}

theorem port_of_not_portDenied (h : ¬ errorApplies .portDenied i s) (hi : allowedOnC i = false) :
    s.env.port = .a :=
  (Port.eq_a_or_c _).resolve_right fun hport => h ⟨hport, hi⟩

theorem session_of_not_notPrepared (h : ¬ errorApplies .notPrepared i s) (hi : needsSession i = true) :
    s.blk.session = .prepared := by
  cases hses : s.blk.session with
  | prepared => rfl
  | unprepared => exact absurd ⟨hi, hses⟩ h

theorem block_of_not_noBlock (h : ¬ errorApplies .noBlock i s) (hi : needsBlock i = true) :
    s.blk.blockValid = true :=
  Bool.eq_true_of_not_eq_false fun hvalid => h ⟨hi, hvalid⟩

theorem index_of_not_badIndex {j : Word} (h : ¬ errorApplies .badIndex i s) (hi : indexTaken i = some j) :
    j.toNat < s.blk.capacity.toNat :=
  Nat.lt_of_not_le fun hle => h ⟨j, hi, hle⟩

/-- A command on a channel is none of those port C may issue, and it needs a session. -/
theorem channelTaken_needs {ch : Field8} (hch : channelTaken i = some ch) :
    allowedOnC i = false ∧ needsSession i = true := by
  cases i <;> cases hch <;> exact ⟨rfl, rfl⟩

/-- A command on a channel to which no error of the common checks applies passes them. -/
theorem admits_of_not_errorApplies {ch : Field8} (hch : channelTaken i = some ch)
    (hport : ¬ errorApplies .portDenied i s) (hses : ¬ errorApplies .notPrepared i s)
    (hcount : ¬ errorApplies .badChannel i s) : s.Admits ch := by
  obtain ⟨hdenied, hneeds⟩ := channelTaken_needs hch
  exact ⟨port_of_not_portDenied hport hdenied, session_of_not_notPrepared hses hneeds,
    Nat.lt_of_not_le fun hle => hcount ⟨ch, hch, hle⟩⟩

theorem exec_of_illegalCmd (h : errorApplies .illegalCmd i s) : exec i s = reject .illegalCmd s := by
  cases i with
  | readReg n =>
    have hn : ¬ n.toNat ≤ 9 := by simpa [errorApplies, Instr.isWellFormed] using h
    have hreg : s.register n.toNat = none := by
      rwa [← State.register_isSome s, Bool.not_eq_true, Option.isSome_eq_false_iff, Option.isNone_iff_eq_none] at hn
    simp [exec, execReadReg, indexOperand, hreg]
  | nop | prepare | release | setDelayMs | setWetGain | beginBlock | processSample | storeRead | storeWrite
  | storeAdvance | getCursor | getReadCursor | clearErr => exact absurd rfl h

theorem exec_of_portDenied (h : errorApplies .portDenied i s) : exec i s = reject .portDenied s := by
  obtain ⟨hport, hdenied⟩ := h
  cases i with
  | nop | setDelayMs | setWetGain | readReg => cases hdenied
  | prepare | release | beginBlock | processSample | storeRead | storeWrite | storeAdvance | getCursor
  | getReadCursor | clearErr => exact requirePortA_of_portC hport _

theorem exec_of_notPrepared (hport : ¬ errorApplies .portDenied i s) (h : errorApplies .notPrepared i s) :
    exec i s = reject .notPrepared s := by
  obtain ⟨hneeds, hses⟩ := h
  have hses : s.blk.session ≠ .prepared := by simp [hses]
  cases i with
  | nop | prepare | release | setDelayMs | setWetGain | readReg | clearErr => cases hneeds
  | beginBlock | processSample | storeRead | storeWrite | storeAdvance | getCursor | getReadCursor =>
    exact (requirePortA_of (port_of_not_portDenied hport rfl) _).trans (if_pos hses)

/-- PREPARE's operand check is the BAD_CONFIG line of R224. -/
theorem badConfig_iff {n : Field8} {cap rate : Word} :
    errorApplies .badConfig (.prepare n cap rate) s ↔ configOutOfRange s.cfg n cap rate = true := by
  have hzero {k : Nat} (x : BitVec k) : x = 0 ↔ x.toNat = 0 := by simp [← BitVec.toNat_inj]
  rw [configOutOfRange_iff, ← hzero n, ← hzero cap]
  constructor
  · rintro ⟨_, _, _, heq, hbad⟩
    cases heq
    exact hbad
  · exact fun hbad => ⟨n, cap, rate, rfl, hbad⟩

theorem exec_of_badConfig (hport : ¬ errorApplies .portDenied i s) (h : errorApplies .badConfig i s) :
    exec i s = reject .badConfig s := by
  obtain ⟨n, cap, rate, rfl, -⟩ := id h
  exact exec_prepare_of_outOfRange (port_of_not_portDenied hport rfl) (badConfig_iff.mp h)

theorem exec_of_badChannel (hport : ¬ errorApplies .portDenied i s) (hses : ¬ errorApplies .notPrepared i s)
    (h : errorApplies .badChannel i s) : exec i s = reject .badChannel s := by
  obtain ⟨ch, hch, hcount⟩ := h
  obtain ⟨hdenied, hneeds⟩ := channelTaken_needs hch
  obtain ⟨k, hk⟩ := exec_eq_requireAdmitted hch s
  rw [hk, requireAdmitted, requirePortA_of (port_of_not_portDenied hport hdenied),
    requireSession_of (session_of_not_notPrepared hses hneeds), channel_eq]
  exact if_pos hcount

theorem exec_of_noBlock (hport : ¬ errorApplies .portDenied i s) (hses : ¬ errorApplies .notPrepared i s)
    (hcount : ¬ errorApplies .badChannel i s) (h : errorApplies .noBlock i s) : exec i s = reject .noBlock s := by
  obtain ⟨hneeds, hvalid⟩ := h
  have hvalid : ¬ s.blk.blockValid = true := by simp [hvalid]
  cases i with
  | processSample ch | getReadCursor ch =>
    have hadm : s.Admits ch := admits_of_not_errorApplies rfl hport hses hcount
    exact (requireAdmitted_of hadm _).trans (if_neg hvalid)
  | nop | prepare | release | setDelayMs | setWetGain | beginBlock | storeRead | storeWrite | storeAdvance
  | getCursor | readReg | clearErr => cases hneeds

theorem exec_of_badIndex (hport : ¬ errorApplies .portDenied i s) (hses : ¬ errorApplies .notPrepared i s)
    (hcount : ¬ errorApplies .badChannel i s) (h : errorApplies .badIndex i s) : exec i s = reject .badIndex s := by
  obtain ⟨j, hj, hcap⟩ := h
  cases i with
  | storeRead ch | storeWrite ch =>
    cases hj
    have hadm : s.Admits ch := admits_of_not_errorApplies rfl hport hses hcount
    exact (requireAdmitted_of hadm _).trans (if_pos hcap)
  | nop | prepare | release | setDelayMs | setWetGain | beginBlock | processSample | storeAdvance | getCursor
  | getReadCursor | readReg | clearErr => cases hj

theorem exec_of_delayRange (hport : ¬ errorApplies .portDenied i s) (hses : ¬ errorApplies .notPrepared i s)
    (h : errorApplies .delayRange i s) : exec i s = reject .delayRange { s with blk := s.blk.clearLatch } := by
  obtain ⟨rfl, hconv⟩ := h
  exact exec_beginBlock_of_range (port_of_not_portDenied hport rfl) (session_of_not_notPrepared hses rfl) hconv

/-- The error with the lowest code rejects a legal command, because the checks stand in the order of the codes. -/
theorem exec_of_lowest {e : ErrorCode} (h : errorApplies e i s)
    (hlowest : ∀ e', errorApplies e' i s → e.code.toNat ≤ e'.code.toNat) :
    ∃ t, exec i s = .next t ∧ t.env = s.env.answer ⟨e.code, 0⟩ := by
  have hno (e' : ErrorCode) (hlt : e'.code.toNat < e.code.toNat) : ¬ errorApplies e' i s :=
    fun h' => Nat.not_le.mpr hlt (hlowest e' h')
  cases e with
  | illegalCmd => exact ⟨_, exec_of_illegalCmd h, rfl⟩
  | portDenied => exact ⟨_, exec_of_portDenied h, rfl⟩
  | notPrepared => exact ⟨_, exec_of_notPrepared (hno _ (by decide)) h, rfl⟩
  | badConfig => exact ⟨_, exec_of_badConfig (hno _ (by decide)) h, rfl⟩
  | badChannel => exact ⟨_, exec_of_badChannel (hno _ (by decide)) (hno _ (by decide)) h, rfl⟩
  | noBlock => exact ⟨_, exec_of_noBlock (hno _ (by decide)) (hno _ (by decide)) (hno _ (by decide)) h, rfl⟩
  | badIndex => exact ⟨_, exec_of_badIndex (hno _ (by decide)) (hno _ (by decide)) (hno _ (by decide)) h, rfl⟩
  | delayRange => exact ⟨_, exec_of_delayRange (hno _ (by decide)) (hno _ (by decide)) h, rfl⟩

/-! ### Commands to which no error applies succeed -/

/-- The commands port C may issue succeed in every state, if they have an encoding (R230). -/
theorem exists_succeeds_of_allowedOnC (hwf : i.WellFormed) (h : allowedOnC i = true) : ∃ v b, Succeeds s i v b := by
  cases i with
  | nop => exact ⟨_, _, .nop⟩
  | setDelayMs ms => exact ⟨_, _, .setDelayMs ms⟩
  | setWetGain g => exact ⟨_, _, .setWetGain g⟩
  | readReg n =>
    have hn : n.toNat ≤ 9 := of_decide_eq_true hwf
    obtain ⟨v, hv⟩ := Option.isSome_iff_exists.mp ((s.register_isSome _).mpr hn)
    exact ⟨_, _, .readReg hv⟩
  | prepare | release | beginBlock | processSample | storeRead | storeWrite | storeAdvance | getCursor
  | getReadCursor | clearErr => cases h

/-- In an admitted state with a latched block PROCESS_SAMPLE succeeds: the invariant gives its cursor, its tap and the
cell it writes. -/
theorem exists_succeeds_processSample {ch : Field8} {x : Word} (hinv : s.Inv) (hadm : s.Admits ch)
    (hvalid : s.blk.blockValid = true) : ∃ v b, Succeeds s (.processSample ch x) v b := by
  have ⟨_, _, hcursor, _⟩ := hinv
  obtain ⟨w, hcur, -⟩ := hcursor.exists_cursor hadm.channel
  cases hbypass : s.blk.bypass with
  | true => exact ⟨_, _, .processBypassed hadm hvalid hbypass⟩
  | false =>
    have hready : s.readyFor ch := ⟨hadm.port, hadm.session, hadm.channel, hvalid, hbypass⟩
    obtain ⟨tap, -, hsucc⟩ := succeeds_processSample_of_ready hinv hready hcur x
    exact ⟨_, _, hsucc⟩

/-- Under the invariant a command to which no error applies meets the conditions of success. -/
theorem exists_succeeds (hinv : s.Inv) (h : ∀ e, ¬ errorApplies e i s) : ∃ v b, Succeeds s i v b := by
  have hadm {ch : Field8} (hch : channelTaken i = some ch) : s.Admits ch :=
    admits_of_not_errorApplies hch (h _) (h _) (h _)
  have hport := port_of_not_portDenied (h .portDenied)
  have hblock := block_of_not_noBlock (h .noBlock)
  have hcell {ch : Field8} {j : Word} (hch : channelTaken i = some ch) (hj : indexTaken i = some j) :
      s.blk.hasCell ch.toNat j.toNat = true :=
    (hadm hch).hasCell_of_lt (index_of_not_badIndex (h _) hj)
  have hcur {ch : Field8} (hch : channelTaken i = some ch) : ∃ w, s.blk.cursor ch.toNat = some w := by
    obtain ⟨-, -, hcursor, -⟩ := hinv
    obtain ⟨w, hw, -⟩ := hcursor.exists_cursor (hadm hch).channel
    exact ⟨w, hw⟩
  cases i with
  | nop | setDelayMs | setWetGain | readReg => exact exists_succeeds_of_allowedOnC (not_not.mp (h .illegalCmd)) rfl
  | prepare n cap rate =>
    exact ⟨_, _, .prepare (hport rfl) (Bool.eq_false_of_not_eq_true (badConfig_iff.not.mp (h _)))⟩
  | release => exact ⟨_, _, .release (hport rfl)⟩
  | clearErr => exact ⟨_, _, .clearErr (hport rfl)⟩
  | beginBlock =>
    have hses := session_of_not_notPrepared (h .notPrepared) rfl
    cases hconv : convert s.blk.delayMs s.blk.sampleRate s.blk.capacity with
    | range => exact absurd ⟨rfl, hconv⟩ (h .delayRange)
    | bypass => exact ⟨_, _, .beginBypass (hport rfl) hses hconv⟩
    | delay d => exact ⟨_, _, .beginDelay (hport rfl) hses hconv⟩
  | processSample ch x => exact exists_succeeds_processSample hinv (hadm rfl) (hblock rfl)
  | storeRead ch j => exact ⟨_, _, .storeRead (hadm rfl) (Block.readCell_of_hasCell (hcell rfl rfl))⟩
  | storeWrite ch j v => exact ⟨_, _, .storeWrite (hadm rfl) (hcell rfl rfl)⟩
  | storeAdvance ch =>
    obtain ⟨w, hw⟩ := hcur rfl
    exact ⟨_, _, .storeAdvance (hadm rfl) hw⟩
  | getCursor ch =>
    obtain ⟨w, hw⟩ := hcur rfl
    exact ⟨_, _, .getCursor (hadm rfl) hw⟩
  | getReadCursor ch =>
    obtain ⟨w, hw⟩ := hcur rfl
    exact ⟨_, _, .getReadCursor (hadm rfl) (hblock rfl) hw⟩

end

/-! ### The errors of three words (R224, R230) -/

/-- A command taken from its port that meets the conditions of success is answered with code 0. -/
theorem step_of_succeeds {c : Command} {i : Instr} {s u : State} {v : Word} {b : Block}
    (hsel : select s = .command c u) (hdec : decode c = .legal i) (h : Succeeds u i v b) :
    ∃ t v, step s = .next t ∧ t.env = u.env.answer ⟨0, v⟩ :=
  ⟨_, v, (step_of_select_command hsel hdec).trans h.exec_eq, rfl⟩

theorem errorAppliesTo_of_legal {c : Command} {i : Instr} (h : decode c = .legal i) (e : ErrorCode) (s : State) :
    errorAppliesTo e c s ↔ errorApplies e i s := by
  rw [errorAppliesTo, h]

theorem errorAppliesTo_of_illegal {c : Command} {why : Illegal} (h : decode c = .illegal why) (e : ErrorCode)
    (s : State) : errorAppliesTo e c s ↔ e = .illegalCmd := by
  rw [errorAppliesTo, h]

/-- Settles O22: a legal command passes the checks in the order of their codes, and illegal words meet the first line
alone. -/
theorem lowestApplicableErrorRejects : Obligations.LowestApplicableErrorRejects := by
  refine ⟨fun e c s u hsel happlies hlowest => ?_, fun c s u hinv hsel hnone => ?_⟩
  · cases hdec : decode c with
    | legal i =>
      simp only [errorAppliesTo_of_legal hdec] at happlies hlowest
      rw [step_of_select_command hsel hdec]
      exact exec_of_lowest happlies hlowest
    | illegal why =>
      obtain rfl := (errorAppliesTo_of_illegal hdec e u).mp happlies
      exact ⟨_, step_of_select_illegal hsel (by simp [hdec]), rfl⟩
  · cases hdec : decode c with
    | legal i =>
      simp only [errorAppliesTo_of_legal hdec] at hnone
      obtain ⟨v, b, hsucc⟩ := exists_succeeds (select_command_keeps_inv hsel hinv) hnone
      exact step_of_succeeds hsel hdec hsucc
    | illegal why => exact absurd ((errorAppliesTo_of_illegal hdec _ u).mpr rfl) (hnone .illegalCmd)

/-- The commands port C may issue, by name (R230). -/
theorem allowedOnC_iff (i : Instr) :
    allowedOnC i = true ↔ i = .nop ∨ (∃ ms, i = .setDelayMs ms) ∨ (∃ g, i = .setWetGain g) ∨ ∃ n, i = .readReg n := by
  cases i <;> simp [allowedOnC]

/-- Settles O23: the port check denies the other ten commands, and these four make no check that can fail. -/
theorem portCMayIssueOnlyFourCommands : Obligations.PortCMayIssueOnlyFourCommands := by
  intro c i s u hsel hport hdec
  split
  case isTrue hallowed =>
    obtain ⟨-, -, -, hwf⟩ := decode_legal hdec
    obtain ⟨v, b, hsucc⟩ := exists_succeeds_of_allowedOnC hwf ((allowedOnC_iff i).mpr hallowed)
    exact step_of_succeeds hsel hdec hsucc
  case isFalse hdenied =>
    have happlies : errorApplies .portDenied i u :=
      ⟨hport, Bool.eq_false_of_not_eq_true ((allowedOnC_iff i).not.mpr hdenied)⟩
    exact ⟨_, (step_of_select_command hsel hdec).trans (exec_of_portDenied happlies), rfl⟩

end Sys2Proof.Machine
end

section
/-! PROOFS. Reset, rest and the order of commands (spec/70_reset_and_hazards.md): a step that takes no command leaves
what selection leaves, and a channel's processing is rejected as long as no block is latched. -/

namespace Sys2Proof.Machine

/-! ### Steps that take no command (R250, R260) -/

theorem step_of_select_noCommand {s t : State} (hsel : select s = .noCommand t) : step s = .next t := by
  simp [step, fetch, hsel]

theorem select_of_powerOn {s : State} {ts : List Turn} (h : s.env.turns = .powerOn :: ts) :
    select s = .noCommand (powerOnReset { s with env := { s.env with turns := ts } }) := by
  simp [select, h]

/-- The free arbiter takes nothing where nothing waits. -/
theorem select_of_atRest {s : State} (hturns : s.env.turns = []) (hrest : s.atRest) : select s = .noCommand s := by
  obtain ⟨hA, hC⟩ := hrest
  rw [select_of_no_turn hturns, arbitrate, hA, hC]

/-- Settles O10: a step with a reset decided is that reset and no more, for selection then takes no command. -/
theorem powerOnResetRestoresTheTable : Obligations.PowerOnResetRestoresTheTable :=
  fun _ _ hturns =>
    ⟨_, step_of_select_noCommand (select_of_powerOn hturns), rfl, rfl, rfl, rfl, rfl, rfl, rfl⟩

/-- Settles O11: with no decision pending the arbiter is free, and it finds no command. -/
theorem restChangesNothing : Obligations.RestChangesNothing :=
  fun _ hturns hrest => step_of_select_noCommand (select_of_atRest hturns hrest)

/-! ### Processing without a latched block (R255) -/

/-- A session in which no block is latched. -/
def Block.Unlatched (b : Block) : Prop := b.session = .prepared ∧ b.blockValid = false

/-- A successful PREPARE starts a session without a latched block (41_store.md R120). -/
theorem unlatched_of_prepare {n : Field8} {cap rate : Word} {s t : State} {r : Response}
    (h : exec (.prepare n cap rate) s = .next t) (henv : t.env = s.env.answer r) (hok : r.status = 0) :
    t.blk.Unlatched := by
  obtain ⟨status, v⟩ := r
  obtain rfl : status = 0 := hok
  obtain ⟨b, hsucc, rfl⟩ := succeeds_of_exec h henv
  cases hsucc
  exact ⟨rfl, rfl⟩

/-- The code 8 tells that BEGIN_BLOCK passed the port and session checks and dropped the latch (42_engine.md R151). -/
theorem unlatched_of_delayRange {s t : State} {r : Response} (h : exec .beginBlock s = .next t)
    (henv : t.env = s.env.answer r) (hrange : r.status = 8) : t.blk.Unlatched := by
  rcases execBeginBlock_next h with ⟨e, he, rfl⟩ | ⟨-, hses, ⟨-, rfl⟩ | ⟨-, rfl⟩ | ⟨d, -, rfl⟩⟩
  · obtain rfl : (⟨e.code, 0⟩ : Response) = r := answer_inj henv
    exact absurd hrange (ErrorCode.code_ne_eight fun heq => by simp [heq] at he)
  · exact ⟨hses, rfl⟩
  · obtain rfl : (⟨0, 0⟩ : Response) = r := answer_inj henv
    cases hrange
  · obtain rfl : (⟨0, BitVec.ofNat 32 d⟩ : Response) = r := answer_inj henv
    cases hrange

section
variable {j : Instr} {t : State}

/-- On port A a command that needs a session is rejected without one. -/
theorem exec_of_unprepared (hport : t.env.port = .a) (hneeds : needsSession j = true)
    (hses : t.blk.session = .unprepared) : exec j t = reject .notPrepared t :=
  exec_of_notPrepared (fun ⟨hportC, _⟩ => by simp [hport] at hportC) ⟨hneeds, hses⟩

/-- On port A a command that needs a latched block is rejected on a channel of a session without one. -/
theorem exec_of_unlatched {ch : Field8} (hch : channelTaken j = some ch) (hneeds : needsBlock j = true)
    (hport : t.env.port = .a) (hcount : ch.toNat < t.blk.channelCount.toNat) (hlatch : t.blk.Unlatched) :
    exec j t = reject .noBlock t := by
  obtain ⟨hses, hvalid⟩ := hlatch
  refine exec_of_noBlock ?port ?session ?channel ⟨hneeds, hvalid⟩
  case port => exact fun ⟨hportC, _⟩ => by simp [hport] at hportC
  case session => exact fun ⟨_, hnone⟩ => by simp [hses] at hnone
  case channel =>
    rintro ⟨ch', hch', hle⟩
    obtain rfl : ch = ch' := Option.some.inj (hch.symm.trans hch')
    exact Nat.not_le.mpr hcount hle

end

/-- PROCESS_SAMPLE and GET_READ_CURSOR take a channel, a session and a latched block. -/
theorem processing_needs {j : Instr} {ch : Field8} (h : (∃ x, j = .processSample ch x) ∨ j = .getReadCursor ch) :
    channelTaken j = some ch ∧ needsSession j = true ∧ needsBlock j = true := by
  rcases h with ⟨x, rfl⟩ | rfl <;> exact ⟨rfl, rfl, rfl⟩

/-- Settles O24: PREPARE and DELAY_RANGE leave a session without a latched block, and RELEASE leaves no session. -/
theorem anInvalidatedLatchRejectsProcessing : Obligations.AnInvalidatedLatchRejectsProcessing := by
  intro i j s t r ch hportS h henv hport hj
  obtain ⟨hch, hsession, hblock⟩ := processing_needs hj
  refine ⟨fun hi hcount => ?_, fun hi => ?_⟩
  · have hlatch : t.blk.Unlatched := by
      rcases hi with ⟨n, cap, rate, rfl, hok⟩ | ⟨rfl, hrange⟩
      · exact unlatched_of_prepare h henv hok
      · exact unlatched_of_delayRange h henv hrange
    exact ⟨_, exec_of_unlatched hch hblock hport hcount hlatch, rfl⟩
  · subst hi
    obtain rfl : t = respond 0 { s with blk := s.blk.endSession } :=
      next_inj ((Succeeds.release hportS).exec_eq.symm.trans h)
    exact ⟨_, exec_of_unprepared hport hsession rfl, rfl⟩

end Sys2Proof.Machine
end
